-- ==== Sys2Proof/Word.lean ====
section
/-! DEFINITION. The word types of the CT1642 display-link core (spec/00_scope.md R7, R8, R11). -/

namespace Sys2Proof

/-- An 8-bit value: a segment pattern, a code point or an address code (R7, R8). Bit 0 is the least significant. -/
abbrev Byte := BitVec 8

/-- A 16-bit command word on the port CMD (R77). -/
abbrev CmdWord := BitVec 16

/-- The 18-bit frame register's value (R29). -/
abbrev FrameWord := BitVec 18

/-- A line level (R11): true is high, level 1; false is low, level 0. -/
abbrev Level := Bool

end Sys2Proof
end

