-- ==== Sys2Proof/Config.lean ====
section
/-! DEFINITION. What the spec leaves open: opaque constants with no body, so no proof can see a value of them. -/

namespace Sys2Proof

/-- The OPEN parameter CHAR_TABLE (R7, R23, U1), as it stands before the entries that R24 fixes are laid over it
(`Machine.charTable`). Log entry 6; safe. -/
opaque Config.charTableOpen : Fin 95 → Byte

/-- FREE VALUE: what FR holds once the sequencer is idle (R29, U7), indexed by the clock edge that made it idle.
Log entry 4. -/
opaque Config.idleFr : Nat → FrameWord

/-- FREE VALUE: what DIAG_CHAR shows while DIAG_VALID = 0 (R183, U6), indexed by the clock cycle. Log entry 5. -/
opaque Config.idleDiagChar : Nat → Byte

end Sys2Proof
end

