-- ==== Sys2Proof/Syntax.lean ====
section
/-! DEFINITION. The instructions: one constructor per row of spec/opcode_table.json (R78, R81). -/

namespace Sys2Proof

/-- The operations the host can invoke: the two commands of R78 and the lookup of R81. -/
inductive Instr where
  /-- PRINT pos, cp (R120). -/
  | print (pos : BitVec 2) (cp : Byte)
  /-- DISPLAY (R124). -/
  | display
  /-- TRANSLATE cp, on the lookup port (R100). -/
  | translate (cp : Byte)
deriving DecidableEq, Repr

end Sys2Proof
end

