-- ==== Sys2Proof/WellFormed.lean ====
section
/-! DEFINITION. Well-formedness: of instructions, and of the operands as an assembler line writes them (R82). -/

namespace Sys2Proof

/-- Every term of `Instr` is well formed: the field widths of R77 and R81 are in the operand types, so a position
outside 0..3 or a code point of more than 8 bits cannot be written (R53). -/
def Instr.wellFormed : Instr → Bool
  | .print _ _ => true
  | .display => true
  | .translate _ => true

/-- R82: a position operand of an assembler line, "pos in 0..3". -/
def posInRange (pos : Nat) : Bool := decide (pos < 4)

/-- R82: a code point operand of an assembler line, "an 8-bit value or a quoted character". -/
def cpInRange (cp : Nat) : Bool := decide (cp < 256)

end Sys2Proof
end

