-- ==== Sys2Proof/Decode.lean ====
section
/-! DEFINITION. Decoding and encoding: command words (R77 to R80) and the lookup port (R81). -/

namespace Sys2Proof

/-- The two carriers of an instruction (R75): a 16-bit word on CMD, or 8 bits on ROM_CP. The spec gives no byte order
for either (R52), so a carrier is a bit vector and not a list of bytes. -/
inductive Packet where
  | command (w : CmdWord)
  | lookup (cp : Byte)
deriving DecidableEq, Repr

/-- Why a command word is illegal: the three cases of R79. -/
inductive IllegalWord where
  /-- R79 (a): OP is 0x0 or in 0x3..0xF. -/
  | reservedOpcode
  /-- R79 (b): RSV is not 0b00. -/
  | reservedField
  /-- R79 (c): DISPLAY with A or D not zero. -/
  | displayOperand
deriving DecidableEq, Repr

/-- CMD[15:12] (R77). -/
def opField (w : CmdWord) : BitVec 4 := w.extractLsb' 12 4

/-- CMD[11:10] (R77). -/
def aField (w : CmdWord) : BitVec 2 := w.extractLsb' 10 2

/-- CMD[9:8] (R77). -/
def rsvField (w : CmdWord) : BitVec 2 := w.extractLsb' 8 2

/-- CMD[7:0] (R77). -/
def dField (w : CmdWord) : Byte := w.extractLsb' 0 8

/-- R78, R79: the instruction of a command word, or why the word is illegal. Where a word is illegal for two reasons
the first test that fails names it; the order of the tests is a DESIGN CHOICE, log entry 10. -/
def decodeCommand (w : CmdWord) : Except IllegalWord Instr :=
  if opField w = 1#4 then
    if rsvField w = 0#2 then .ok (.print (aField w) (dField w)) else .error .reservedField
  else if opField w = 2#4 then
    if rsvField w = 0#2 then
      if aField w = 0#2 ∧ dField w = 0#8 then .ok .display else .error .displayOperand
    else .error .reservedField
  else .error .reservedOpcode

/-- R81: each of the 256 values on ROM_CP is a valid lookup. -/
def decodeLookup (cp : Byte) : Instr := .translate cp

/-- Decoding, total on both carriers. -/
def decode : Packet → Except IllegalWord Instr
  | .command w => decodeCommand w
  | .lookup cp => .ok (decodeLookup cp)

/-- R78, R82: the packet of an instruction; PRINT's word is `0x1000 OR (pos << 10) OR cp`. -/
def encode : Instr → Packet
  | .print pos cp => .command (0x1000#16 ||| (pos.setWidth 16 <<< 10) ||| cp.setWidth 16)
  | .display => .command 0x2000#16
  | .translate cp => .lookup cp

/-- A command row of the opcode table: a word `w` is the row's instruction exactly when `w AND mask = match` (R78). -/
structure CommandRow where
  mask : CmdWord
  pattern : CmdWord
deriving DecidableEq, Repr

/-- R78, the PRINT row. -/
def printRow : CommandRow := { mask := 0xF300#16, pattern := 0x1000#16 }

/-- R78, the DISPLAY row. -/
def displayRow : CommandRow := { mask := 0xFFFF#16, pattern := 0x2000#16 }

/-- R78: the word matches the row. -/
def CommandRow.matchesWord (r : CommandRow) (w : CmdWord) : Bool := decide (w &&& r.mask = r.pattern)

/-- What the decoder reads from a row's bits, numbered as spec/opcode_table.json numbers them: a command word has 16,
the lookup port 8. A number with a bit above `nbits`, or another width, is no packet of this block. -/
def decodeTableWord (nbits w : Nat) : Option Instr :=
  if 2 ^ nbits ≤ w then none
  else if nbits = 16 then (decode (.command (BitVec.ofNat 16 w))).toOption
  else if nbits = 8 then (decode (.lookup (BitVec.ofNat 8 w))).toOption
  else none

end Sys2Proof
end

