-- ==== Sys2Proof/Machine/State.lean ====
section
/-! DEFINITION. The machine's state, its reasons to stop, and the state right after reset (spec/10_state.md). -/

namespace Sys2Proof.Machine

/-- The display buffer BUF: exactly 4 slots of 8 bits (R20). -/
structure Buffer where
  slot0 : Byte
  slot1 : Byte
  slot2 : Byte
  slot3 : Byte
deriving DecidableEq, Repr

/-- The two output lines (R27). -/
inductive Pin where
  | clk
  | dat
deriving DecidableEq, Repr

/-- One event of TRACE: a write of a level to a line (R28). -/
structure PinEvent where
  pin : Pin
  level : Level
deriving DecidableEq, Repr

/-- The sequencer state (R30). `busy j t h`: the frame of slot `j` is being sent, `t` is its next micro-step, `h` block
cycles are already spent on it. -/
inductive Seq where
  | idle
  | busy (j : Fin 4) (t : Fin 59) (h : Nat)
deriving DecidableEq, Repr

/-- The exception causes (R181): there is one. -/
inductive Cause where
  | noGlyph
deriving DecidableEq, Repr

/-- A raised diagnostic: its cause and the recorded value, DIAG_CHAR (R180, R181). -/
structure Diag where
  cause : Cause
  char : Byte
deriving DecidableEq, Repr

/-- The levels the host puts on RST, CMD_VALID and CMD for one rising edge of SYS_CLK (R75). -/
structure Ports where
  rst : Bool
  cmdValid : Bool
  cmd : CmdWord
deriving DecidableEq, Repr

/-- What the host does next: look a code point up (no cycle, R107), or let one clock edge pass with the given ports. -/
inductive HostEvent where
  | lookup (cp : Byte)
  | clock (p : Ports)
deriving DecidableEq, Repr

/-- Everything the spec gives the block (R20 to R37), the host's coming inputs, and the model's own counter. -/
@[ext]
structure State where
  /-- BUF (R20). -/
  buf : Buffer
  /-- The output register CLK (R27). -/
  clk : Level
  /-- The output register DAT (R27). -/
  dat : Level
  /-- TRACE, oldest event first (R28). -/
  trace : List PinEvent
  /-- The frame register FR (R29). -/
  fr : FrameWord
  /-- The sequencer state (R30). -/
  seq : Seq
  /-- DIAG_VALID and DIAG_CHAR in the cycle that the latest clock edge ended (R180); log entry 5. -/
  diag : Option Diag
  /-- The level of ROM_CP (R75). -/
  romCp : Byte
  /-- DIGIT_COUNT, which no rule reads (R33, R126); log entry 8. -/
  digitCount : Nat
  /-- STEP_CYCLES, which no step writes (R7, R158); log entry 7. -/
  stepCycles : Nat
  /-- The host's coming inputs, next one first (R75, R194); log entry 2. -/
  inputs : List HostEvent
  /-- A reset has happened, so the registers have values and the lines are driven (R27, R35); log entry 3. -/
  resetDone : Bool
  /-- The MODEL's own: how many clock edges have passed. It indexes the free values; log entry 14. -/
  cycle : Nat
deriving DecidableEq, Repr

/-- The block has no fault ("`fault`: not used; the block has no fault", spec/93_implementation_defined.md), so there is
no reason to give: nobody raises one. Safe. -/
inductive Fault where
deriving DecidableEq, Repr

/-- Why the model gives a step no meaning. -/
inductive Refusal where
  /-- An instruction with no meaning yet. No arm of `exec` raises it. Safe. -/
  | notModelled (mnemonic : String)
  /-- Raised by a clock edge that accepts an illegal command word (R79, R182, D4). Safe: the spec gives the word no
  meaning. -/
  | illegalCommand (w : CmdWord) (why : IllegalWord)
  /-- Raised by a clock edge with RST = 0 before the first reset (R35, R205, U5). Safe: the spec gives such a step no
  meaning. -/
  | stepBeforeReset
deriving DecidableEq, Repr

/-- The state right after reset (R37): the initial display pass is about to begin. `stepCycles` has the default of R7.
DESIGN CHOICE: `romCp`, `digitCount`, `inputs` and `cycle` (log entries 9, 8, 2, 14). -/
def State.reset : State where
  buf := { slot0 := 0xFE#8, slot1 := 0xFE#8, slot2 := 0xFE#8, slot3 := 0xFE#8 }
  clk := false
  dat := false
  trace := []
  fr := 0x1FFFE#18
  seq := .busy 0 0 0
  diag := none
  romCp := 0#8
  digitCount := 0
  stepCycles := 1
  inputs := []
  resetDone := true
  cycle := 0

end Sys2Proof.Machine
end

