-- ==== Sys2Proof/Machine/Operands.lean ====
section
/-! DEFINITION. The constants and the values formed from operands: the reserved patterns, the segment layout, the two
constant tables, and the frame word. -/

namespace Sys2Proof.Machine

/-- SENTINEL, "character has no glyph" (R71). -/
def sentinel : Byte := 0xFF#8

/-- DEFAULT_PATTERN, what reset writes to every slot (R71). -/
def defaultPattern : Byte := 0xFE#8

/-- The segments of a pattern (R70). No rule reads one: the block never interprets a pattern. -/
inductive Segment where
  | a | b | c | d | e | f | g | aux
deriving DecidableEq, Repr

/-- R70: the bit of a pattern that stands for a segment. -/
def segmentBit : Segment → Nat
  | .a => 7
  | .b => 6
  | .c => 5
  | .d => 4
  | .e => 3
  | .f => 2
  | .g => 1
  | .aux => 0

/-- R70: the bit value a pattern holds for a segment; whether 1 means lit is open (N3). -/
def segmentOf (pattern : Byte) (x : Segment) : Bool := pattern.getLsbD (segmentBit x)

/-- The character table ROM (R23): the entries R24 fixes, laid over the OPEN table. -/
def charTable (i : Fin 95) : Byte :=
  match i.val with
  | 21 => 0xB6#8
  | 24 => 0xFE#8
  | 51 => 0xB6#8
  | 71 => Config.charTableOpen 25
  | 84 => Config.charTableOpen 52
  | _ => Config.charTableOpen i

/-- ADDR_CODE (R26). -/
def addrCode : Fin 4 → Byte
  | 0 => 0x7F#8
  | 1 => 0xBF#8
  | 2 => 0xDF#8
  | 3 => 0xEF#8

/-- frameword(j, b) (R150), `(ADDR_CODE[j][7:4] << 14) OR (0x3F << 8) OR b`: the address nibble, six 1 bits, the byte. -/
def frameWord (j : Fin 4) (b : Byte) : FrameWord :=
  (((addrCode j).extractLsb' 4 4).setWidth 18 <<< 14) ||| (0x3F#18 <<< 8) ||| b.setWidth 18

/-- `BUF[j]` (R10). -/
def Buffer.get (b : Buffer) : Fin 4 → Byte
  | 0 => b.slot0
  | 1 => b.slot1
  | 2 => b.slot2
  | 3 => b.slot3

/-- `BUF[j] <- v` (R10, R51): one whole slot. -/
def Buffer.set (b : Buffer) (j : Fin 4) (v : Byte) : Buffer :=
  match j with
  | 0 => { b with slot0 := v }
  | 1 => { b with slot1 := v }
  | 2 => { b with slot2 := v }
  | 3 => { b with slot3 := v }

/-- The value reset gives BUF (R200). -/
def defaultBuffer : Buffer :=
  { slot0 := defaultPattern, slot1 := defaultPattern, slot2 := defaultPattern, slot3 := defaultPattern }

end Sys2Proof.Machine
end

