-- ==== Sys2Proof/Machine/Ops.lean ====
section
/-! DEFINITION. The named operations over the registers: the primitives of R10, raising NO_GLYPH, reset, and accepting a
command. -/

namespace Sys2Proof.Machine

/-- `PinWrite(p, l)` (R10): set the output register and append the event to TRACE. -/
def pinWrite (e : PinEvent) (s : State) : State :=
  match e.pin with
  | .clk => { s with clk := e.level, trace := s.trace ++ [e] }
  | .dat => { s with dat := e.level, trace := s.trace ++ [e] }

/-- `BUF[j] <- v` on the state (R10). -/
def writeSlot (j : Fin 4) (v : Byte) (s : State) : State := { s with buf := s.buf.set j v }

/-- Raising an exception, `emit Diag(cp)` (R10, R180): the pulse of this cycle, and nothing else. Nothing is saved, no
mode changes and control goes nowhere (R186), and so there is no return from it (R187). -/
def raise (c : Cause) (cp : Byte) (s : State) : State := { s with diag := some { cause := c, char := cp } }

/-- R181: the code the spec gives a cause. -/
def causeCode : Cause → Nat
  | .noGlyph => 1

/-- What every clock edge does: DIAG_VALID is 0 in its cycle unless something raises it (R32, R180), and the model's
cycle counter advances. -/
def newCycle (s : State) : State := { s with diag := none, cycle := s.cycle + 1 }

/-- Start the frame of slot `j` (R160): FR is loaded from BUF[j], and micro-step 0 is next. -/
def loadFrame (j : Fin 4) (s : State) : State :=
  { s with fr := frameWord j (s.buf.get j), seq := .busy j 0 0 }

/-- The sequencer becomes idle (R160); FR then holds an unspecified value (R29, U7): a FREE VALUE, log entry 4. -/
def becomeIdle (s : State) : State := { s with seq := .idle, fr := Config.idleFr s.cycle }

/-- Set every register to its reset value (R37, R200). Both lines go low without an event in TRACE (R28). -/
def resetRegisters (s : State) : State :=
  { s with
    buf := defaultBuffer
    clk := false
    dat := false
    trace := []
    fr := frameWord 0 defaultPattern
    seq := .busy 0 0 0
    resetDone := true }

/-- A command has effect only when it is accepted, and it is accepted only while the sequencer is idle (R76, R120, R124):
the effect `f` of its acceptance cycle, or, while busy, none at all (log entry 11). -/
def accept (f : State → State) (s : State) : Host.Outcome State Fault Refusal :=
  match s.seq with
  | .idle => .next (f (newCycle s))
  | .busy _ _ _ => .next s

end Sys2Proof.Machine
end

