-- ==== Sys2Proof/Machine/Encoder.lean ====
section
/-! DEFINITION. The SegmentEncoder (spec/40_segment_encoder.md): the lookup, and the meaning of TRANSLATE. -/

namespace Sys2Proof.Machine

/-- The two results of the lookup (R100). -/
structure Lookup where
  pat : Byte
  noglyph : Bool
deriving DecidableEq, Repr

/-- The lookup of R100 over any table `rom`; the index is formed only inside the range, so it never wraps (R104). -/
def translateWith (rom : Fin 95 → Byte) (cp : Byte) : Lookup :=
  if h : 0x20 ≤ cp.toNat ∧ cp.toNat ≤ 0x7E then
    let e := rom ⟨cp.toNat - 0x20, by omega⟩
    if e = sentinel then { pat := sentinel, noglyph := true } else { pat := e, noglyph := false }
  else { pat := sentinel, noglyph := true }

/-- `translate(cp)` (R100): the lookup in the block's own ROM. -/
def translateCp (cp : Byte) : Lookup := translateWith charTable cp

/-- TRANSLATE (R100, R107): the host puts `cp` on ROM_CP, and the combinational outputs `State.romPat` and
`State.romNoglyph` show the results in the same cycle. No register changes and nothing is raised; it is available in
every state (R63, R106). -/
def execTranslate (cp : Byte) (s : State) : Host.Outcome State Fault Refusal := .next { s with romCp := cp }

end Sys2Proof.Machine
end

