-- ==== Sys2Proof/Machine/Display.lean ====
section
/-! DEFINITION. The DisplayDriver's commands (spec/41_display_driver.md): the meanings of PRINT and DISPLAY. -/

namespace Sys2Proof.Machine

/-- The effect of PRINT in its acceptance cycle (R120): slot 0 gets the pattern, and NO_GLYPH is raised when there is no
glyph (R180). -/
def printEffect (cp : Byte) (s : State) : State :=
  let r := translateCp cp
  let s := writeSlot 0 r.pat s
  if r.noglyph then raise .noGlyph cp s else s

/-- PRINT pos, cp (R120): the position is decoded and ignored (R80, R121). -/
def execPrint (_pos : BitVec 2) (cp : Byte) (s : State) : Host.Outcome State Fault Refusal :=
  accept (printEffect cp) s

/-- R123: the status of a PRINT is the constant 0; the block has no port for it. -/
def printStatus (_pos : BitVec 2) (_cp : Byte) : Nat := 0

/-- DISPLAY (R124) at its acceptance edge, as R160 gives it: the frame of slot 0 is loaded and the pass begins. The
edges that follow make the 236 writes (`busyEdge`); `displayTransaction` is the whole effect as one transaction. -/
def execDisplay (s : State) : Host.Outcome State Fault Refusal := accept (loadFrame 0) s

end Sys2Proof.Machine
end

