-- ==== Sys2Proof/Machine/Dispatch.lean ====
section
/-! DEFINITION. Dispatch: one arm per constructor of Instr. -/

namespace Sys2Proof.Machine

def exec (i : Instr) (s : State) : Host.Outcome State Fault Refusal :=
  match i with
  | .print pos cp => Sys2Proof.Machine.execPrint pos cp s
  | .display => Sys2Proof.Machine.execDisplay s
  | .translate cp => Sys2Proof.Machine.execTranslate cp s

end Sys2Proof.Machine
end

