-- ==== Sys2Proof/Machine/Flags.lean ====
section
/-! DEFINITION. The block's outputs, computed from the state. There are no condition codes (R32). -/

namespace Sys2Proof.Machine

/-- Ports with every input low: what an edge sees when the host drives nothing. DESIGN CHOICE, log entry 2. -/
def quietPorts : Ports := { rst := false, cmdValid := false, cmd := 0#16 }

/-- The ports of the next clock edge in a list of host events. -/
def nextPorts : List HostEvent → Ports
  | [] => quietPorts
  | .lookup _ :: rest => nextPorts rest
  | .clock p :: _ => p

/-- `seq` is not Idle. -/
def Seq.isBusy : Seq → Bool
  | .idle => false
  | .busy _ _ _ => true

/-- BUSY in the present cycle (R31): `seq` is not Idle or RST is asserted. -/
def State.busyOut (s : State) : Bool := s.seq.isBusy || (nextPorts s.inputs).rst

/-- CMD_READY (R31, R76). -/
def State.cmdReady (s : State) : Bool := !s.busyOut

/-- R76: the next edge accepts a command. -/
def State.acceptsCommand (s : State) : Bool :=
  (nextPorts s.inputs).cmdValid && s.cmdReady && !(nextPorts s.inputs).rst

/-- ROM_PAT (R81, R107): combinational from ROM_CP. -/
def State.romPat (s : State) : Byte := (translateCp s.romCp).pat

/-- ROM_NOGLYPH (R81, R107): combinational from ROM_CP. -/
def State.romNoglyph (s : State) : Bool := (translateCp s.romCp).noglyph

/-- DIAG_VALID in the cycle the latest edge ended (R180). -/
def State.diagValid (s : State) : Bool := s.diag.isSome

/-- DIAG_CHAR in that cycle (R180); a FREE VALUE while DIAG_VALID = 0 (R183), log entry 5. -/
def State.diagChar (s : State) : Byte :=
  match s.diag with
  | some d => d.char
  | none => Config.idleDiagChar s.cycle

/-- CLK_OUT (R75): driven by CLK once a reset has made the line an output (R27, R35). -/
def State.clkOut (s : State) : Option Level := if s.resetDone then some s.clk else none

/-- DAT_OUT (R75). -/
def State.datOut (s : State) : Option Level := if s.resetDone then some s.dat else none

end Sys2Proof.Machine
end

