-- ==== Sys2Proof/Machine/Wire.lean ====
section
/-! DEFINITION. The wire protocol at transaction level and the micro-step table (spec/42_wire_protocol.md). -/

namespace Sys2Proof.Machine

/-- The three writes of one bit (R154, R155): clock low, data, clock high. -/
def bitWrites (b : Bool) : List PinEvent := [⟨.clk, false⟩, ⟨.dat, b⟩, ⟨.clk, true⟩]

/-- The latch sequence (R74, R156). -/
def latchWrites : List PinEvent :=
  [⟨.dat, false⟩, ⟨.dat, true⟩, ⟨.clk, false⟩, ⟨.dat, false⟩, ⟨.dat, true⟩]

/-- `frame(j, b)` (R153): the 59 writes of SEND_FRAME, in order. -/
def frame (j : Fin 4) (b : Byte) : List PinEvent :=
  (List.range 18).flatMap (fun k => bitWrites ((frameWord j b).getLsbD (17 - k))) ++ latchWrites

/-- SEND_FRAME(j, b) as one transaction (R153). -/
def sendFrame (j : Fin 4) (b : Byte) (s : State) : State := (frame j b).foldl (fun s e => pinWrite e s) s

/-- The four frames of a display pass over a buffer (R125). -/
def passTrace (b : Buffer) : List PinEvent :=
  frame 0 b.slot0 ++ frame 1 b.slot1 ++ frame 2 b.slot2 ++ frame 3 b.slot3

/-- DISPLAY's pseudocode as one transaction (R124): the four frames in the fixed order. -/
def displayTransaction (s : State) : State :=
  [0, 1, 2, 3].foldl (fun s j => sendFrame j (s.buf.get j) s) s

/-- The write that micro-step `t` makes with frame word `F` (R157). -/
def microWrite (t : Fin 59) (F : FrameWord) : PinEvent :=
  if t.val < 54 then
    match t.val % 3 with
    | 0 => ⟨.clk, false⟩
    | 1 => ⟨.dat, F.getLsbD (17 - t.val / 3)⟩
    | _ => ⟨.clk, true⟩
  else
    match t.val with
    | 54 => ⟨.dat, false⟩
    | 55 => ⟨.dat, true⟩
    | 56 => ⟨.clk, false⟩
    | 57 => ⟨.dat, false⟩
    | _ => ⟨.dat, true⟩

/-- `MicroStep(t, F)` (R157): exactly one PinWrite. -/
def microStep (t : Fin 59) (F : FrameWord) (s : State) : State := pinWrite (microWrite t F) s

end Sys2Proof.Machine
end

