-- ==== Sys2Proof/Machine/Sequencer.lean ====
section
/-! DEFINITION. The cycle-level sequencer: what one rising edge of SYS_CLK does (R160). -/

namespace Sys2Proof.Machine

/-- The last three lines of R160: the next sequencer state. -/
def advance (j : Fin 4) (t : Fin 59) (h : Nat) (s : State) : State :=
  if h < s.stepCycles - 1 then { s with seq := .busy j t (h + 1) }
  else if ht : t.val < 58 then { s with seq := .busy j ⟨t.val + 1, by omega⟩ 0 }
  else if hj : j.val < 3 then loadFrame ⟨j.val + 1, by omega⟩ s
  else becomeIdle s

/-- An edge with `seq = Busy(j, t, h)` and RST = 0 (R160, R185 (2)): CMD_VALID is not read. -/
def busyEdge (j : Fin 4) (t : Fin 59) (h : Nat) (s : State) : State :=
  let s := newCycle s
  advance j t h (if h = 0 then microStep t s.fr s else s)

/-- An edge with RST = 1 (R160, R185 (1), R200), in any state. -/
def resetEdge (s : State) : State := resetRegisters (newCycle s)

/-- An edge that accepts the command word `w` (R160, R185 (3)); an illegal word is refused (R79). -/
def commandEdge (w : CmdWord) (s : State) : Host.Outcome State Fault Refusal :=
  match decode (.command w) with
  | .ok i => exec i s
  | .error why => .refused (.illegalCommand w why)

/-- One rising edge of SYS_CLK with the given ports (R160, in the order of R185). An edge with RST = 0 before the first
reset has no meaning (R35). -/
def clockEdge (p : Ports) (s : State) : Host.Outcome State Fault Refusal :=
  if p.rst then .next (resetEdge s)
  else if s.resetDone then
    match s.seq with
    | .idle => if p.cmdValid then commandEdge p.cmd s else .next (newCycle s)
    | .busy j t h => .next (busyEdge j t h s)
  else .refused .stepBeforeReset

/-- What the host's next event does: a lookup takes no clock edge (R107, R212). -/
def hostEvent (e : HostEvent) (s : State) : Host.Outcome State Fault Refusal :=
  match e with
  | .lookup cp => exec (decodeLookup cp) s
  | .clock p => clockEdge p s

/-- The host event that presents the packet of an instruction: a command word for one edge, or a code point. -/
def presentPacket : Packet → HostEvent
  | .command w => .clock { rst := false, cmdValid := true, cmd := w }
  | .lookup cp => .lookup cp

end Sys2Proof.Machine
end

