-- ==== Sys2Proof/Machine/Step.lean ====
section
/-! DEFINITION. The step: the host's next event, or a quiet clock edge when there is none (log entries 1, 2). -/

namespace Sys2Proof.Machine

/-- One step of the machine: one host event, that is one rising edge of SYS_CLK or one lookup. -/
def step (s : State) : Host.Outcome State Fault Refusal :=
  match s.inputs with
  | [] => clockEdge quietPorts s
  | e :: rest => hostEvent e { s with inputs := rest }

/-- The state in which the very next step runs the instruction whose bits are `w`. The block fetches nothing (R61): its
program is the host's sequence of events, so the event goes to the head of `inputs`. A command word is accepted only by
an idle block after reset (R76, R206), so for one the sequencer is idle and the reset done; the lookup port needs
neither. Log entry 12. -/
def State.withFetchWord (s : State) (nbits w : Nat) : State :=
  if nbits = 8 then { s with inputs := presentPacket (.lookup (BitVec.ofNat 8 w)) :: s.inputs }
  else
    { s with
      inputs := presentPacket (.command (BitVec.ofNat 16 w)) :: s.inputs
      seq := .idle
      resetDone := true }

end Sys2Proof.Machine
end

