-- ==== Sys2Proof/Machine/Program.lean ====
section
/-! DEFINITION. Host programs (R82): assembler lines, their expansions, and the host that drives the block with them. The
host is outside the block; `step` does not use this file (log entry 15). -/

namespace Sys2Proof.Machine

/-- What a host program is made of once expanded (R82): present a word until it is accepted, look a code point up,
assert RST, or wait until BUSY = 0. -/
inductive HostLine where
  | command (w : CmdWord)
  | lookup (cp : Byte)
  | reset
  | waitIdle
deriving DecidableEq, Repr

/-- A print as an assembler line writes it (R82): `PRINT pos, cp`, or `PRINTS pos, "text"` with the text's bytes. -/
inductive PrintLine where
  | print (pos cp : Nat)
  | prints (pos : Nat) (text : List Byte)
deriving DecidableEq, Repr

/-- An assembler line of R82. The body of REFRESH is the host's writer: any sequence of prints, possibly empty (R130). -/
inductive AsmLine where
  | print (p : PrintLine)
  | display
  | translate (cp : Nat)
  | reset
  | waitIdle
  | refresh (body : List PrintLine)
  | setup
deriving DecidableEq, Repr

/-- R82: the operands of a print are in range. -/
def PrintLine.wellFormed : PrintLine → Bool
  | .print pos cp => posInRange pos && cpInRange cp
  | .prints pos _ => posInRange pos

/-- R82: the operands of a line are in range. -/
def AsmLine.wellFormed : AsmLine → Bool
  | .print p => p.wellFormed
  | .translate cp => cpInRange cp
  | .refresh body => body.all PrintLine.wellFormed
  | .display => true
  | .reset => true
  | .waitIdle => true
  | .setup => true

/-- R82: the word of `PRINT pos, cp` is `0x1000 OR (pos << 10) OR cp`. -/
def printWord (pos cp : Nat) : CmdWord := 0x1000#16 ||| (BitVec.ofNat 16 pos <<< 10) ||| BitVec.ofNat 16 cp

/-- R122: the code point a text presents: its first byte, or 0x00 when it is empty. -/
def textCodePoint : List Byte → Byte
  | [] => 0x00#8
  | c :: _ => c

/-- The word of a print (R82, R122). -/
def PrintLine.word : PrintLine → CmdWord
  | .print pos cp => printWord pos cp
  | .prints pos text => printWord pos (textCodePoint text).toNat

/-- The word of DISPLAY (R82). -/
def displayWord : CmdWord := 0x2000#16

/-- The expansion of a line (R82, R130). -/
def AsmLine.expand : AsmLine → List HostLine
  | .print p => [.command p.word]
  | .display => [.command displayWord]
  | .translate cp => [.lookup (BitVec.ofNat 8 cp)]
  | .reset => [.reset]
  | .waitIdle => [.waitIdle]
  | .refresh body => body.map (fun p => .command p.word) ++ [.command displayWord]
  | .setup => [.reset]

/-- A program's expansion; an ill-formed line is refused. -/
def assemble (prog : List AsmLine) : Option (List HostLine) :=
  if prog.all AsmLine.wellFormed then some (prog.flatMap AsmLine.expand) else none

/-- Ports that present a command word. -/
def commandPorts (w : CmdWord) : Ports := { rst := false, cmdValid := true, cmd := w }

/-- Ports that assert RST. -/
def resetPorts : Ports := { rst := true, cmdValid := false, cmd := 0#16 }

/-- What the host does next, and what is left of its program (R82, R194, R206, R208): a command is held until the block
is ready; RESET asserts RST for one cycle (R204: more are the same); WAITIDLE takes no cycle once BUSY = 0. -/
def hostDrive : List HostLine → State → Option (HostEvent × List HostLine)
  | [], _ => none
  | .reset :: rest, _ => some (.clock resetPorts, rest)
  | .lookup cp :: rest, _ => some (.lookup cp, rest)
  | .command w :: rest, s =>
    if s.seq.isBusy then some (.clock (commandPorts w), .command w :: rest)
    else some (.clock (commandPorts w), rest)
  | .waitIdle :: rest, s => if s.seq.isBusy then some (.clock quietPorts, .waitIdle :: rest) else hostDrive rest s

/-- The host and the block for at most `fuel` events; it ends early when the program does. -/
def hostRun : Nat → List HostLine → State → Host.Outcome State Fault Refusal
  | 0, _, s => .next s
  | fuel + 1, prog, s =>
    match hostDrive prog s with
    | none => .next s
    | some (e, rest) =>
      match step { s with inputs := [e] } with
      | .next s' => hostRun fuel rest s'
      | .fault r => .fault r
      | .refused r => .refused r

end Sys2Proof.Machine
end

