-- ==== Sys2Proof/Safety.lean ====
section
/-! DEFINITION. What counts as a good state and a good run, in the terms the statements use. -/

namespace Sys2Proof.Machine

/-- `n` steps, stopping at the first one that is no next state. -/
def runSteps : Nat → State → Host.Outcome State Fault Refusal
  | 0, s => .next s
  | n + 1, s =>
    match step s with
    | .next t => runSteps n t
    | .fault r => .fault r
    | .refused r => .refused r

/-- The event is a clock edge with RST = 0, whatever stands on CMD_VALID and CMD. -/
def HostEvent.isRunningEdge : HostEvent → Bool
  | .lookup _ => false
  | .clock p => !p.rst

/-- The next `n` steps are clock edges with RST = 0: the first `n` events are, and where the list is shorter the step
takes quiet edges. -/
def runningEdges (n : Nat) (s : State) : Prop := ∀ e ∈ s.inputs.take n, e.isRunningEdge = true

/-- The level a line has after a trace: the last level written to it, or 0 where there is none (R28). -/
def lastLevel (p : Pin) (trace : List PinEvent) : Level :=
  trace.foldl (fun l e => if e.pin = p then e.level else l) false

/-- R28: the line levels are what TRACE says. -/
def State.linesMatchTrace (s : State) : Prop :=
  s.clk = lastLevel .clk s.trace ∧ s.dat = lastLevel .dat s.trace

/-- R7, R30: STEP_CYCLES is at least 1, and the cycle count of a micro-step stays below it. -/
def State.seqInRange (s : State) : Prop :=
  1 ≤ s.stepCycles ∧ ∀ j t h, s.seq = .busy j t h → h < s.stepCycles

/-- R29: while a frame is being sent FR holds that frame's bits. -/
def State.frHoldsFrame (s : State) : Prop :=
  ∀ j t h, s.seq = .busy j t h → s.fr = frameWord j (s.buf.get j)

/-- How many writes of the present pass are made: whole frames, micro-steps, and the one under way (R30, R160). -/
def writesMade (j : Fin 4) (t : Fin 59) (h : Nat) : Nat := 59 * j.val + t.val + (if h = 0 then 0 else 1)

/-- R58, R124, R201: TRACE is a row of whole display passes, and while one is in progress the part of it already made. -/
def State.traceIsPasses (s : State) : Prop :=
  ∃ done : List Buffer,
    match s.seq with
    | .idle => s.trace = done.flatMap passTrace
    | .busy j t h => s.trace = done.flatMap passTrace ++ (passTrace s.buf).take (writesMade j t h)

/-- R22: slots 1 to 3 hold 0xFE; slot 0 holds 0xFE or a value TRANSLATE can return. -/
def State.bufferInRange (s : State) : Prop :=
  s.buf.slot1 = 0xFE#8 ∧ s.buf.slot2 = 0xFE#8 ∧ s.buf.slot3 = 0xFE#8 ∧
    (s.buf.slot0 = 0xFE#8 ∨ ∃ cp, s.buf.slot0 = (translateCp cp).pat)

/-- How many more edges a pass in progress takes (R160, R212). -/
def edgesLeft (j : Fin 4) (t : Fin 59) (h S : Nat) : Nat := (59 * (3 - j.val) + (58 - t.val)) * S + (S - h)

/-- The first `n` micro-steps of the frame word `F` (R157), as one transaction. -/
def afterMicroSteps (F : FrameWord) (n : Nat) (s : State) : State :=
  ((List.finRange 59).take n).foldl (fun s t => microStep t F s) s

/-- The host's next event asserts RST. -/
def State.resetNext (s : State) : Bool :=
  match s.inputs with
  | .clock p :: _ => p.rst
  | .lookup _ :: _ => false
  | [] => false

/-- The host's next event is a lookup. -/
def State.lookupNext (s : State) : Bool :=
  match s.inputs with
  | .lookup _ :: _ => true
  | .clock _ :: _ => false
  | [] => false

end Sys2Proof.Machine
end

