-- ==== Sys2Proof/Certificates/Slice0/Obligations.lean ====
section
/-! DEFINITION. The statements about the machine. Each docstring names the rule of spec/ the statement formalises. -/

open Sys2Proof Sys2Proof.Machine

/-! ## Decoding and encoding -/

/-- V13 of spec/95_test_vectors.md, and R81 for the lookup port: these words decode so. -/
def Obligations.SpecWordsDecode : Prop :=
  decodeCommand 0x1000#16 = .ok (.print 0#2 0x00#8) ∧
  decodeCommand 0x1CFF#16 = .ok (.print 3#2 0xFF#8) ∧
  decodeCommand 0x1C35#16 = .ok (.print 3#2 0x35#8) ∧
  decodeCommand 0x2000#16 = .ok .display ∧
  decodeCommand 0x0000#16 = .error .reservedOpcode ∧
  decodeCommand 0x3000#16 = .error .reservedOpcode ∧
  decodeCommand 0xF000#16 = .error .reservedOpcode ∧
  decodeCommand 0x1135#16 = .error .reservedField ∧
  decodeCommand 0x1235#16 = .error .reservedField ∧
  decodeCommand 0x2001#16 = .error .displayOperand ∧
  decodeCommand 0x2400#16 = .error .displayOperand ∧
  decodeCommand 0x2100#16 = .error .reservedField ∧
  decodeTableWord 16 0x1C35 = some (.print 3#2 0x35#8) ∧
  decodeTableWord 16 0x2000 = some .display ∧
  decodeTableWord 8 0x35 = some (.translate 0x35#8)

/-- R77, R78, R81: decoding gives back every well-formed instruction from its encoding. -/
def Obligations.DecodeOfEncode : Prop :=
  ∀ i : Instr, i.wellFormed = true → decode (encode i) = .ok i

/-- R78: an instruction has one encoding: whatever decodes to it is its encoding. -/
def Obligations.EncodeOfDecode : Prop :=
  ∀ (p : Packet) (i : Instr), decode p = .ok i → encode i = p

/-- R78: a word is a row's instruction exactly when it matches the row under its mask, with the operands the row names;
no word matches two rows; every other opcode is reserved; and no word is anything but a PRINT or a DISPLAY (SEND_FRAME
has no opcode). That such a word's reason is `reservedOpcode` where its RSV is not 0 either is the model's order of tests,
log entry 10 (DESIGN CHOICE); R78 and R79 say only that it is reserved and illegal. -/
def Obligations.OpcodeMap : Prop :=
  ∀ w : CmdWord,
    (∀ pos cp, decodeCommand w = .ok (.print pos cp) ↔
      printRow.matchesWord w = true ∧ pos = aField w ∧ cp = dField w) ∧
    (decodeCommand w = .ok .display ↔ displayRow.matchesWord w = true) ∧
    ¬(printRow.matchesWord w = true ∧ displayRow.matchesWord w = true) ∧
    (opField w ≠ 1#4 ∧ opField w ≠ 2#4 → decodeCommand w = .error .reservedOpcode) ∧
    (∀ i, decodeCommand w = .ok i → (∃ pos cp, i = .print pos cp) ∨ i = .display)

/-- R79: a word is illegal exactly in the cases (a), (b) and (c), and an edge that accepts an illegal word is refused: it
has no next state, so BUF, the lines and `seq` do not change. -/
def Obligations.IllegalWordsRefused : Prop :=
  (∀ w : CmdWord, (∃ why, decodeCommand w = .error why) ↔
    ((opField w = 0#4 ∨ 3 ≤ (opField w).toNat) ∨ rsvField w ≠ 0#2 ∨
      (opField w = 2#4 ∧ (aField w ≠ 0#2 ∨ dField w ≠ 0#8)))) ∧
  (∀ (s : State) (p : Ports) (rest : List HostEvent) (why : IllegalWord),
    s.inputs = .clock p :: rest → p.rst = false → p.cmdValid = true → s.resetDone = true → s.seq = .idle →
    decodeCommand p.cmd = .error why → step s = .refused (.illegalCommand p.cmd why))

/-! ## TRANSLATE -/

/-- R101: outside 0x20..0x7E the lookup gives the sentinel and no glyph, whatever table it has: the ROM is not read. -/
def Obligations.TranslateOutsideRange : Prop :=
  ∀ (rom : Fin 95 → Byte) (cp : Byte), cp.toNat < 0x20 ∨ 0x7E < cp.toNat →
    translateWith rom cp = { pat := 0xFF#8, noglyph := true } ∧
    translateCp cp = { pat := 0xFF#8, noglyph := true }

/-- R102, R103: inside the range the entry at `cp - 0x20` decides: the sentinel gives no glyph, any other entry is the
pattern; for any table, and the block's lookup is that of its own ROM. -/
def Obligations.TranslateInsideRange : Prop :=
  (∀ (rom : Fin 95 → Byte) (cp : Byte) (i : Fin 95),
    0x20 ≤ cp.toNat → cp.toNat ≤ 0x7E → i.val = cp.toNat - 0x20 →
    (rom i = 0xFF#8 → translateWith rom cp = { pat := 0xFF#8, noglyph := true }) ∧
    (rom i ≠ 0xFF#8 → translateWith rom cp = { pat := rom i, noglyph := false })) ∧
  (∀ cp : Byte, translateCp cp = translateWith charTable cp)

/-- R105: the pattern is 0xFF exactly when there is no glyph; for the block's ROM and for any other table. -/
def Obligations.SentinelIffNoGlyph : Prop :=
  ∀ (rom : Fin 95 → Byte) (cp : Byte),
    ((translateWith rom cp).pat = 0xFF#8 ↔ (translateWith rom cp).noglyph = true) ∧
    ((translateCp cp).pat = 0xFF#8 ↔ (translateCp cp).noglyph = true)

/-- R24: the entries of CHAR_TABLE that the source states. -/
def Obligations.KnownTableEntries : Prop :=
  charTable 21 = 0xB6#8 ∧ charTable 24 = 0xFE#8 ∧ charTable 51 = charTable 21 ∧
  charTable 71 = charTable 25 ∧ charTable 84 = charTable 52

/-- R24, R103: what the lookup gives for the glyphs whose patterns are known, and the pairs that share a pattern. -/
def Obligations.KnownGlyphs : Prop :=
  translateCp 0x35#8 = { pat := 0xB6#8, noglyph := false } ∧
  translateCp 0x38#8 = { pat := 0xFE#8, noglyph := false } ∧
  translateCp 0x53#8 = { pat := 0xB6#8, noglyph := false } ∧
  translateCp 0x67#8 = translateCp 0x39#8 ∧ translateCp 0x74#8 = translateCp 0x54#8

/-- R107: a lookup completes in every state: the outputs show the results for the code point, and nothing but the input
level of ROM_CP changes: no register, no record, no DIAG_VALID pulse. R106 and R63 have the lookup answer at any time and
in any state of the block, busy ones included. The model's own: that it answers in the states before the first reset too
is log entry 3 (DEDUCED), and that it is a step of its own between clock edges is log entry 1 (DESIGN CHOICE). -/
def Obligations.TranslateCompletes : Prop :=
  (∀ (cp : Byte) (s : State), ∃ t, exec (.translate cp) s = .next t ∧ t = { s with romCp := cp } ∧
    t.romPat = (translateCp cp).pat ∧ t.romNoglyph = (translateCp cp).noglyph) ∧
  (∀ (cp : Byte) (s : State) (rest : List HostEvent), s.inputs = .lookup cp :: rest →
    ∃ t, step s = .next t ∧ t = { s with inputs := rest, romCp := cp } ∧
      t.romPat = (translateCp cp).pat ∧ t.romNoglyph = (translateCp cp).noglyph)

/-- R106: equal code points give equal results, in any two states of the block. -/
def Obligations.LookupDependsOnCodePointAlone : Prop :=
  ∀ (cp : Byte) (s₁ s₂ t₁ t₂ : State),
    exec (.translate cp) s₁ = .next t₁ → exec (.translate cp) s₂ = .next t₂ →
    t₁.romPat = t₂.romPat ∧ t₁.romNoglyph = t₂.romNoglyph

/-! ## PRINT -/

/-- R120: PRINT's word is in its row with `pos` and `cp` in their fields; and on an idle block slot 0 gets the pattern of
`cp`, NO_GLYPH is raised with `cp` exactly when there is no glyph, the block stays idle, no line is written, and slots 1
to 3 are unchanged. -/
def Obligations.PrintResult : Prop :=
  (∀ (pos : BitVec 2) (cp : Byte), ∃ w, encode (.print pos cp) = .command w ∧
    w &&& 0xF300#16 = 0x1000#16 ∧ aField w = pos ∧ dField w = cp) ∧
  (∀ (pos : BitVec 2) (cp : Byte) (s : State), s.seq = .idle →
    ∃ t, exec (.print pos cp) s = .next t ∧
      t.buf = { s.buf with slot0 := (translateCp cp).pat } ∧
      t.diag = (if (translateCp cp).noglyph then some { cause := .noGlyph, char := cp } else none) ∧
      t.seq = .idle ∧ t.busyOut = s.busyOut ∧
      t.clk = s.clk ∧ t.dat = s.dat ∧ t.trace = s.trace)

/-- R121: the position has no effect, in any state. -/
def Obligations.PrintIgnoresPosition : Prop :=
  ∀ (pos : BitVec 2) (cp : Byte) (s : State), exec (.print pos cp) s = exec (.print 0#2 cp) s

/-- The frame of PRINT (R120): what it leaves unchanged. It writes slot 0 and the diagnostic pulse; the model's own
`cycle` (log entry 14) advances. That FR is kept is the model's reading of R160 (log entry 4), and that the input level
ROM_CP stands until the host changes it is log entry 9. -/
def Obligations.PrintFrame : Prop :=
  ∀ (pos : BitVec 2) (cp : Byte) (s t : State), exec (.print pos cp) s = .next t →
    t.buf.slot1 = s.buf.slot1 ∧ t.buf.slot2 = s.buf.slot2 ∧ t.buf.slot3 = s.buf.slot3 ∧
    t.clk = s.clk ∧ t.dat = s.dat ∧ t.trace = s.trace ∧ t.fr = s.fr ∧ t.seq = s.seq ∧
    t.romCp = s.romCp ∧ t.digitCount = s.digitCount ∧ t.stepCycles = s.stepCycles ∧
    t.inputs = s.inputs ∧ t.resetDone = s.resetDone

/-- R180: DIAG_VALID is 1 for the one cycle in which a PRINT whose code point has no glyph is accepted, and in no other;
DIAG_CHAR is then the code point, slot 0 receives 0xFF, and nothing else is recorded or saved. The model's own, beside
R180: that FR is kept is log entry 4 (DEDUCED; R29 leaves it unspecified while idle), that ROM_CP is kept is log entry 9,
and that the field `diag` describes the cycle of the latest edge, so that a lookup leaves it, is log entry 5 (DESIGN
CHOICE). -/
def Obligations.NoGlyphRaisedExactly : Prop :=
  (∀ (s t : State) (p : Ports) (rest : List HostEvent), s.inputs = .clock p :: rest → step s = .next t →
    (t.diagValid = true ↔
      p.rst = false ∧ s.seq = .idle ∧ p.cmdValid = true ∧
        ∃ pos cp, decodeCommand p.cmd = .ok (.print pos cp) ∧ (translateCp cp).noglyph = true) ∧
    (t.diagValid = true → t.diagChar = dField p.cmd ∧ t.buf.slot0 = 0xFF#8 ∧
      t.diag = some { cause := .noGlyph, char := dField p.cmd } ∧
      t.buf.slot1 = s.buf.slot1 ∧ t.buf.slot2 = s.buf.slot2 ∧ t.buf.slot3 = s.buf.slot3 ∧
      t.clk = s.clk ∧ t.dat = s.dat ∧ t.trace = s.trace ∧ t.fr = s.fr ∧ t.seq = s.seq ∧ t.romCp = s.romCp)) ∧
  (∀ s t : State, s.inputs = [] → step s = .next t → t.diagValid = false) ∧
  (∀ s t : State, s.lookupNext = true → step s = .next t → t.diag = s.diag)

/-- R76, in the model's form (log entry 11): a command that meets a busy sequencer is turned away with none of its
effect. -/
def Obligations.CommandsTurnedAwayWhileBusy : Prop :=
  ∀ (s : State) (j : Fin 4) (t : Fin 59) (h : Nat) (pos : BitVec 2) (cp : Byte), s.seq = .busy j t h →
    exec (.print pos cp) s = .next s ∧ exec .display s = .next s

/-! ## DISPLAY -/

/-- R160: DISPLAY on an idle block loads the frame of slot 0 and starts the pass; no line is written yet, BUF is
unchanged, and no diagnostic is raised (R124). -/
def Obligations.DisplayAccepted : Prop :=
  ∀ s : State, s.seq = .idle →
    ∃ t, exec .display s = .next t ∧ t.seq = .busy 0 0 0 ∧ t.fr = frameWord 0 s.buf.slot0 ∧
      t.buf = s.buf ∧ t.diag = none ∧ t.clk = s.clk ∧ t.dat = s.dat ∧ t.trace = s.trace

/-- The frame of DISPLAY at its acceptance (R124, R160): it writes FR and `seq`, and the diagnostic pulse is over. That
the input level ROM_CP stands until the host changes it is log entry 9. -/
def Obligations.DisplayFrame : Prop :=
  ∀ s t : State, exec .display s = .next t →
    t.buf = s.buf ∧ t.clk = s.clk ∧ t.dat = s.dat ∧ t.trace = s.trace ∧ t.romCp = s.romCp ∧
    t.digitCount = s.digitCount ∧ t.stepCycles = s.stepCycles ∧ t.inputs = s.inputs ∧
    t.resetDone = s.resetDone

/-- R161: from the start of a pass, with RST held at 0, the sequencer reaches Idle after exactly 236 x STEP_CYCLES edges,
and has appended exactly the four frames of the transaction level. -/
def Obligations.SequencerAgreesWithTransaction : Prop :=
  ∀ s : State, s.resetDone = true → 1 ≤ s.stepCycles → s.seq = .busy 0 0 0 → s.fr = frameWord 0 s.buf.slot0 →
    runningEdges (236 * s.stepCycles) s →
    (∃ t, runSteps (236 * s.stepCycles) s = .next t ∧ t.seq = .idle ∧
      t.trace = s.trace ++ (frame 0 s.buf.slot0 ++ frame 1 s.buf.slot1 ++ frame 2 s.buf.slot2 ++
        frame 3 s.buf.slot3) ∧
      t.trace = (displayTransaction s).trace ∧ t.clk = (displayTransaction s).clk ∧
      t.dat = (displayTransaction s).dat ∧ t.buf = (displayTransaction s).buf) ∧
    (∀ m < 236 * s.stepCycles, ∃ t, runSteps m s = .next t ∧ t.seq ≠ .idle)

/-- R125: a DISPLAY accepted by an idle block, with RST held at 0, appends exactly the four frames of BUF to TRACE, never
writes BUF, and leaves CLK = 0 and DAT = 1. -/
def Obligations.DisplayAppendsFourFrames : Prop :=
  ∀ (s : State) (p : Ports) (rest : List HostEvent), s.resetDone = true → 1 ≤ s.stepCycles → s.seq = .idle →
    s.inputs = .clock p :: rest → p.cmdValid = true → decodeCommand p.cmd = .ok .display →
    runningEdges (1 + 236 * s.stepCycles) s →
    ∃ t, runSteps (1 + 236 * s.stepCycles) s = .next t ∧ t.seq = .idle ∧
      t.trace = s.trace ++ (frame 0 s.buf.slot0 ++ frame 1 s.buf.slot1 ++ frame 2 s.buf.slot2 ++
        frame 3 s.buf.slot3) ∧
      t.buf = s.buf ∧ t.clk = false ∧ t.dat = true

/-- R160, R212: write `n` of a pass is made at edge `n * S` of it, and between two writes the lines hold: after `m` edges
the trace has grown by the first `m / S` writes, rounded up. -/
def Obligations.PassWritesOnTime : Prop :=
  ∀ s : State, s.resetDone = true → 1 ≤ s.stepCycles → s.seq = .busy 0 0 0 → s.fr = frameWord 0 s.buf.slot0 →
    ∀ m ≤ 236 * s.stepCycles, runningEdges m s →
      ∃ t, runSteps m s = .next t ∧ t.buf = s.buf ∧
        t.trace = s.trace ++ (passTrace s.buf).take ((m + s.stepCycles - 1) / s.stepCycles)

/-- R128, R160: from any point of a pass, and whatever commands the host presents meanwhile, the pass runs to its end
after exactly the edges that are left, unless RST is asserted. -/
def Obligations.PassAlwaysCompletes : Prop :=
  ∀ (s : State) (j : Fin 4) (k : Fin 59) (h : Nat), s.resetDone = true → s.seqInRange → s.seq = .busy j k h →
    runningEdges (edgesLeft j k h s.stepCycles) s →
    (∃ t, runSteps (edgesLeft j k h s.stepCycles) s = .next t ∧ t.seq = .idle) ∧
    (∀ m < edgesLeft j k h s.stepCycles, ∃ t, runSteps m s = .next t ∧ t.seq ≠ .idle)

/-- R126: DIGIT_COUNT has no effect on any step: two states that differ in it alone make steps that differ in it
alone. -/
def Obligations.DigitCountHasNoEffect : Prop :=
  ∀ (s : State) (d : Nat),
    (∀ t, step s = .next t → step { s with digitCount := d } = .next { t with digitCount := d }) ∧
    (∀ r, step s = .refused r → step { s with digitCount := d } = .refused r)

/-! ## The wire -/

/-- R150: the frame word is the three fields side by side, which is the four values given, and its bits are sent from
bit 17 down to bit 0. -/
def Obligations.FrameWordValue : Prop :=
  ∀ (j : Fin 4) (b : Byte),
    (frameWord j b).extractLsb' 14 4 = (addrCode j).extractLsb' 4 4 ∧
    (frameWord j b).extractLsb' 8 6 = 0b111111#6 ∧ (frameWord j b).extractLsb' 0 8 = b ∧
    frameWord 0 b = 0x1FF00#18 ||| b.setWidth 18 ∧ frameWord 1 b = 0x2FF00#18 ||| b.setWidth 18 ∧
    frameWord 2 b = 0x37F00#18 ||| b.setWidth 18 ∧ frameWord 3 b = 0x3BF00#18 ||| b.setWidth 18 ∧
    (∀ k < 18, (frame j b)[3 * k + 1]? = some ⟨.dat, (frameWord j b).getLsbD (17 - k)⟩)

/-- R151, R152: the data values of the 18 bits in the order sent: the upper nibble of the address code, MSB first; six
1 bits; the byte, MSB first; and the address bits spelt out for the four slots. -/
def Obligations.FramePhases : Prop :=
  (∀ (j : Fin 4) (b : Byte),
    (∀ k < 4, (frame j b)[3 * k + 1]? = some ⟨.dat, (addrCode j).getLsbD (7 - k)⟩) ∧
    (∀ k, 4 ≤ k → k < 10 → (frame j b)[3 * k + 1]? = some ⟨.dat, true⟩) ∧
    (∀ k, 10 ≤ k → k < 18 → (frame j b)[3 * k + 1]? = some ⟨.dat, b.getLsbD (17 - k)⟩)) ∧
  ((List.range 4).map (fun k => (addrCode 0).getLsbD (7 - k)) = [false, true, true, true]) ∧
  ((List.range 4).map (fun k => (addrCode 1).getLsbD (7 - k)) = [true, false, true, true]) ∧
  ((List.range 4).map (fun k => (addrCode 2).getLsbD (7 - k)) = [true, true, false, true]) ∧
  ((List.range 4).map (fun k => (addrCode 3).getLsbD (7 - k)) = [true, true, true, false])

/-- R157: the micro-step table; each micro-step makes exactly one PinWrite. -/
def Obligations.MicroStepTable : Prop :=
  ∀ (t : Fin 59) (F : FrameWord) (s : State),
    (∀ k < 18, t.val = 3 * k → microStep t F s = pinWrite ⟨.clk, false⟩ s) ∧
    (∀ k < 18, t.val = 3 * k + 1 → microStep t F s = pinWrite ⟨.dat, F.getLsbD (17 - k)⟩ s) ∧
    (∀ k < 18, t.val = 3 * k + 2 → microStep t F s = pinWrite ⟨.clk, true⟩ s) ∧
    (t.val = 54 → microStep t F s = pinWrite ⟨.dat, false⟩ s) ∧
    (t.val = 55 → microStep t F s = pinWrite ⟨.dat, true⟩ s) ∧
    (t.val = 56 → microStep t F s = pinWrite ⟨.clk, false⟩ s) ∧
    (t.val = 57 → microStep t F s = pinWrite ⟨.dat, false⟩ s) ∧
    (t.val = 58 → microStep t F s = pinWrite ⟨.dat, true⟩ s)

/-- R10, R27, R28: a PinWrite sets its line, appends its event, and touches nothing else. -/
def Obligations.PinWriteEffect : Prop :=
  ∀ (l : Level) (s : State),
    pinWrite ⟨.clk, l⟩ s = { s with clk := l, trace := s.trace ++ [⟨.clk, l⟩] } ∧
    pinWrite ⟨.dat, l⟩ s = { s with dat := l, trace := s.trace ++ [⟨.dat, l⟩] }

/-- R153, R157: the frame of the pseudocode is the 59 micro-steps of the table, in order. -/
def Obligations.FrameIsMicroSteps : Prop :=
  ∀ (j : Fin 4) (b : Byte), frame j b = (List.finRange 59).map (fun t => microWrite t (frameWord j b))

/-- V4 of spec/95_test_vectors.md (from R153): 59 writes, 18 of them clock-high, 19 clock-low, 22 data; the last five
are the latch of R74. -/
def Obligations.FrameCounts : Prop :=
  ∀ (j : Fin 4) (b : Byte),
    (frame j b).length = 59 ∧ (frame j b).count ⟨.clk, true⟩ = 18 ∧ (frame j b).count ⟨.clk, false⟩ = 19 ∧
    (frame j b).countP (fun e => decide (e.pin = .dat)) = 22 ∧
    (frame j b).drop 54 = [⟨.dat, false⟩, ⟨.dat, true⟩, ⟨.clk, false⟩, ⟨.dat, false⟩, ⟨.dat, true⟩]

/-- R162: the six line facts, for the frame of any slot and byte that starts with CLK = 0. `at n` is the state after
the first `n` micro-steps. -/
def Obligations.LineFacts : Prop :=
  ∀ (j : Fin 4) (b : Byte) (s : State), s.clk = false →
    ((afterMicroSteps (frameWord j b) 1 s).clk = (afterMicroSteps (frameWord j b) 0 s).clk) ∧
    (∀ t < 59,
      ((afterMicroSteps (frameWord j b) t s).clk = false ∧
          (afterMicroSteps (frameWord j b) (t + 1) s).clk = true ↔ ∃ k < 18, t = 3 * k + 2) ∧
      ((afterMicroSteps (frameWord j b) t s).clk = true ∧
          (afterMicroSteps (frameWord j b) (t + 1) s).clk = false ↔
        (∃ k, 1 ≤ k ∧ k ≤ 17 ∧ t = 3 * k) ∨ t = 56)) ∧
    (∀ k < 18,
      (afterMicroSteps (frameWord j b) (3 * k + 1) s).clk = false ∧
      (∀ n, 3 * k + 2 ≤ n → n ≤ (if k < 17 then 3 * k + 4 else 54) →
        (afterMicroSteps (frameWord j b) n s).dat = (frameWord j b).getLsbD (17 - k))) ∧
    (∀ t < 54,
      (afterMicroSteps (frameWord j b) t s).dat ≠ (afterMicroSteps (frameWord j b) (t + 1) s).dat →
      (afterMicroSteps (frameWord j b) t s).clk = false ∧
      (afterMicroSteps (frameWord j b) (t + 1) s).clk = false) ∧
    ((afterMicroSteps (frameWord j b) 54 s).clk = true ∧ (afterMicroSteps (frameWord j b) 55 s).clk = true ∧
      (afterMicroSteps (frameWord j b) 56 s).clk = true ∧ (afterMicroSteps (frameWord j b) 57 s).clk = false ∧
      (afterMicroSteps (frameWord j b) 58 s).clk = false ∧
      (afterMicroSteps (frameWord j b) 54 s).dat = b.getLsbD 0 ∧
      (afterMicroSteps (frameWord j b) 55 s).dat = false ∧ (afterMicroSteps (frameWord j b) 56 s).dat = true ∧
      (afterMicroSteps (frameWord j b) 57 s).dat = true ∧ (afterMicroSteps (frameWord j b) 58 s).dat = false) ∧
    ((afterMicroSteps (frameWord j b) 59 s).clk = false ∧ (afterMicroSteps (frameWord j b) 59 s).dat = true)

/-! ## The sequencer and the step -/

/-- R160, R76, R107: a step at an idle block whose host presents a word that decodes to `i` is `exec i`, with the event
taken from the inputs; a step whose host looks a code point up is `exec` of that TRANSLATE, in any state (R106, R63). The
model's own: that a lookup is a step of its own is log entry 1 (DESIGN CHOICE), and that it answers in the states before
the first reset too is log entry 3 (DEDUCED). -/
def Obligations.StepRunsDecodedInstruction : Prop :=
  (∀ (s : State) (p : Ports) (rest : List HostEvent) (i : Instr),
    s.inputs = .clock p :: rest → p.rst = false → p.cmdValid = true → s.resetDone = true → s.seq = .idle →
    decode (.command p.cmd) = .ok i → i.wellFormed = true → step s = exec i { s with inputs := rest }) ∧
  (∀ (s : State) (cp : Byte) (rest : List HostEvent) (i : Instr),
    s.inputs = .lookup cp :: rest → decode (.lookup cp) = .ok i → i.wellFormed = true →
    step s = exec i { s with inputs := rest })

/-- R160: an edge of a busy block with RST = 0 makes the micro-step when `h = 0` and nothing else on the lines, and goes
to the next sequencer state by the four cases of the rule. That the input level ROM_CP stands is log entry 9. -/
def Obligations.BusyEdgeFollowsSequencer : Prop :=
  ∀ (s : State) (j : Fin 4) (k : Fin 59) (h : Nat), s.resetDone = true → s.seq = .busy j k h →
    runningEdges 1 s →
    ∃ t, step s = .next t ∧ t.buf = s.buf ∧ t.diag = none ∧ t.inputs = s.inputs.tail ∧ t.romCp = s.romCp ∧
      t.digitCount = s.digitCount ∧ t.stepCycles = s.stepCycles ∧ t.resetDone = s.resetDone ∧
      t.trace = (if h = 0 then s.trace ++ [microWrite k s.fr] else s.trace) ∧
      t.clk = (if h = 0 then (microStep k s.fr s).clk else s.clk) ∧
      t.dat = (if h = 0 then (microStep k s.fr s).dat else s.dat) ∧
      (h < s.stepCycles - 1 → t.seq = .busy j k (h + 1) ∧ t.fr = s.fr) ∧
      (s.stepCycles - 1 ≤ h → ∀ k' : Fin 59, k'.val = k.val + 1 → t.seq = .busy j k' 0 ∧ t.fr = s.fr) ∧
      (s.stepCycles - 1 ≤ h → k.val = 58 → ∀ j' : Fin 4, j'.val = j.val + 1 →
        t.seq = .busy j' 0 0 ∧ t.fr = frameWord j' (s.buf.get j')) ∧
      (s.stepCycles - 1 ≤ h → k.val = 58 → j.val = 3 → t.seq = .idle)

/-- R163, R193: an idle block holds its buffer, its lines and its trace through an edge that accepts nothing. That the
input level ROM_CP stands is log entry 9. -/
def Obligations.IdleEdgeHolds : Prop :=
  ∀ s : State, s.resetDone = true → s.seq = .idle → s.lookupNext = false → s.resetNext = false →
    (nextPorts s.inputs).cmdValid = false →
    ∃ t, step s = .next t ∧ t.seq = .idle ∧ t.buf = s.buf ∧ t.clk = s.clk ∧ t.dat = s.dat ∧
      t.trace = s.trace ∧ t.diag = none ∧ t.romCp = s.romCp ∧ t.digitCount = s.digitCount ∧
      t.stepCycles = s.stepCycles ∧ t.resetDone = s.resetDone ∧ t.inputs = s.inputs.tail

/-- R76: a command is accepted exactly when CMD_VALID = 1, CMD_READY = 1 and RST = 0, and otherwise its word has no
effect: the edge is that of a host that presents nothing. -/
def Obligations.CommandAcceptedExactly : Prop :=
  ∀ (s : State) (p : Ports) (rest : List HostEvent), s.resetDone = true → s.inputs = .clock p :: rest →
    (s.acceptsCommand = true ↔ p.cmdValid = true ∧ s.cmdReady = true ∧ p.rst = false) ∧
    (s.acceptsCommand = true → step s = commandEdge p.cmd { s with inputs := rest }) ∧
    (s.acceptsCommand = false →
      step s = step { s with inputs := .clock { rst := p.rst, cmdValid := false, cmd := 0#16 } :: rest })

/-- R31: BUSY is 1 exactly when `seq` is not Idle or RST is asserted, and CMD_READY is its negation. -/
def Obligations.BusyOutput : Prop :=
  ∀ s : State, (s.busyOut = true ↔ s.seq ≠ .idle ∨ (nextPorts s.inputs).rst = true) ∧
    (s.cmdReady = true ↔ s.busyOut = false)

/-- R209: a PRINT and at the very next edge a DISPLAY are both accepted, and the frame of slot 0 carries what the PRINT
wrote. -/
def Obligations.PrintThenDisplay : Prop :=
  ∀ (s : State) (p q : Ports) (rest : List HostEvent) (pos : BitVec 2) (cp : Byte),
    s.resetDone = true → s.seq = .idle → s.inputs = .clock p :: .clock q :: rest →
    p.rst = false → p.cmdValid = true → q.rst = false → q.cmdValid = true →
    decodeCommand p.cmd = .ok (.print pos cp) → decodeCommand q.cmd = .ok .display →
    ∃ t, runSteps 2 s = .next t ∧ t.seq = .busy 0 0 0 ∧ t.fr = frameWord 0 (translateCp cp).pat ∧
      t.buf.slot0 = (translateCp cp).pat

/-- R21: only reset and PRINT write BUF: reset writes 0xFE to all four slots, PRINT writes slot 0 and no other. -/
def Obligations.BufferWriters : Prop :=
  ∀ s t : State, step s = .next t → t.buf ≠ s.buf →
    (s.resetNext = true ∧ t.buf = { slot0 := 0xFE#8, slot1 := 0xFE#8, slot2 := 0xFE#8, slot3 := 0xFE#8 }) ∨
    (s.resetNext = false ∧ s.acceptsCommand = true ∧
      ∃ pos cp, decodeCommand (nextPorts s.inputs).cmd = .ok (.print pos cp) ∧
        t.buf = { s.buf with slot0 := (translateCp cp).pat })

/-- R27, R127: the lines and TRACE are written only by reset and by the micro-step of a pass in progress. -/
def Obligations.LineWriters : Prop :=
  ∀ s t : State, step s = .next t → (t.clk ≠ s.clk ∨ t.dat ≠ s.dat ∨ t.trace ≠ s.trace) →
    s.resetNext = true ∨
    (∃ j k, s.seq = .busy j k 0 ∧ t.trace = s.trace ++ [microWrite k s.fr])

/-- R28, R58: unless RST is asserted a step leaves TRACE as it was or appends one event to it. -/
def Obligations.TraceOnlyGrows : Prop :=
  ∀ s t : State, step s = .next t → s.resetNext = false →
    t.trace = s.trace ∨ ∃ e, t.trace = s.trace ++ [e]

/-- R79, R35: once a reset has happened a step has a next state unless it accepts an illegal word, and before that a
clock edge has one exactly when RST is asserted. No step faults. The model's own: that a lookup has a next state before
the first reset too is log entry 3 (DEDUCED, from R106, R63 and R23), and that it is a step of its own is log entry 1
(DESIGN CHOICE). -/
def Obligations.StepHasNextState : Prop :=
  ∀ s : State,
    ((∃ t, step s = .next t) ↔
      s.lookupNext = true ∨ s.resetNext = true ∨
      (s.resetDone = true ∧
        ¬(s.acceptsCommand = true ∧ ∃ why, decodeCommand (nextPorts s.inputs).cmd = .error why))) ∧
    (s.resetDone = false → s.lookupNext = false → s.resetNext = false → step s = .refused .stepBeforeReset)

/-! ## Reset -/

/-- R37: the state State.reset; the ROM and ADDR_CODE are constants of the model. -/
def Obligations.ResetValues : Prop :=
  State.reset.buf = { slot0 := 0xFE#8, slot1 := 0xFE#8, slot2 := 0xFE#8, slot3 := 0xFE#8 } ∧
  State.reset.clk = false ∧ State.reset.dat = false ∧ State.reset.trace = [] ∧
  State.reset.seq = .busy 0 0 0 ∧ State.reset.fr = 0x1FFFE#18 ∧
  State.reset.fr = frameWord 0 State.reset.buf.slot0 ∧
  State.reset.busyOut = true ∧ State.reset.diagValid = false

/-- R200: an edge with RST = 1, in any state, before a first reset too, sets every register to its reset value; it
accepts no command, makes no micro-step and raises no diagnostic. The model's own, of which R200 says nothing: that the
edge leaves the input level ROM_CP is log entry 9 (DESIGN CHOICE), DIGIT_COUNT log entry 8, STEP_CYCLES log entry 7, and
the host's later inputs log entry 2. -/
def Obligations.ResetEdgeSetsRegisters : Prop :=
  ∀ (s : State) (p : Ports) (rest : List HostEvent), s.inputs = .clock p :: rest → p.rst = true →
    ∃ t, step s = .next t ∧
      t.buf = { slot0 := 0xFE#8, slot1 := 0xFE#8, slot2 := 0xFE#8, slot3 := 0xFE#8 } ∧
      t.clk = false ∧ t.dat = false ∧ t.trace = [] ∧ t.fr = frameWord 0 0xFE#8 ∧ t.seq = .busy 0 0 0 ∧
      t.diagValid = false ∧ t.resetDone = true ∧ t.inputs = rest ∧
      t.romCp = s.romCp ∧ t.digitCount = s.digitCount ∧ t.stepCycles = s.stepCycles

/-- R204: a second cycle with RST = 1 leaves what the first one left; only the model's own `cycle` advances. That a reset edge leaves the input level ROM_CP is
log entry 9 (DESIGN CHOICE). -/
def Obligations.HoldingResetChangesNothing : Prop :=
  ∀ (s t : State) (p q : Ports) (rest : List HostEvent),
    s.inputs = .clock p :: .clock q :: rest → p.rst = true → q.rst = true → step s = .next t →
    step t = .next { t with inputs := rest, cycle := t.cycle + 1 }

/-- R201: after a reset edge in any state, with RST then held at 0, the initial display pass takes 236 x STEP_CYCLES
edges and leaves exactly four frames of 0xFE in TRACE, BUF at 0xFE, CLK = 0 and DAT = 1; no command is accepted
before. The first edge of the pass makes micro-step 0 of slot 0's frame. -/
def Obligations.InitialDisplayPass : Prop :=
  ∀ (s : State) (p : Ports) (rest : List HostEvent), s.inputs = .clock p :: rest → p.rst = true →
    1 ≤ s.stepCycles → (∀ e ∈ rest.take (236 * s.stepCycles), e.isRunningEdge = true) →
    (∃ t, runSteps 2 s = .next t ∧ t.trace = [microWrite 0 (frameWord 0 0xFE#8)]) ∧
    (∃ t, runSteps (1 + 236 * s.stepCycles) s = .next t ∧ t.seq = .idle ∧
      t.trace = frame 0 0xFE#8 ++ frame 1 0xFE#8 ++ frame 2 0xFE#8 ++ frame 3 0xFE#8 ∧
      t.buf = { slot0 := 0xFE#8, slot1 := 0xFE#8, slot2 := 0xFE#8, slot3 := 0xFE#8 } ∧
      t.clk = false ∧ t.dat = true) ∧
    (∀ m < 236 * s.stepCycles, ∃ t, runSteps (1 + m) s = .next t ∧ t.seq ≠ .idle)

/-! ## Invariants -/

/-- R28: every step keeps the lines at what TRACE says. -/
def Obligations.StepKeepsLinesMatchTrace : Prop :=
  ∀ s t : State, s.linesMatchTrace → step s = .next t → t.linesMatchTrace

/-- R29, R30: every step keeps the sequencer's counts in range and FR equal to the frame being sent. -/
def Obligations.StepKeepsSequencer : Prop :=
  ∀ s t : State, s.seqInRange ∧ s.frHoldsFrame → step s = .next t → t.seqInRange ∧ t.frHoldsFrame

/-- R58, R124, R201: every step keeps TRACE a row of whole display passes and the part made of the one in progress: no
cut or foreign write ever stands in it. The premises are the invariants of `StepKeepsSequencer`. -/
def Obligations.StepKeepsTraceOfPasses : Prop :=
  ∀ s t : State, s.seqInRange → s.frHoldsFrame → s.traceIsPasses → step s = .next t → t.traceIsPasses

/-- R22: every step keeps slots 1 to 3 at 0xFE and slot 0 at 0xFE or a value TRANSLATE can return. -/
def Obligations.StepKeepsBufferInRange : Prop :=
  ∀ s t : State, s.bufferInRange → step s = .next t → t.bufferInRange

/-- The four invariants hold right after reset. -/
def Obligations.ResetMeetsInvariants : Prop :=
  State.reset.linesMatchTrace ∧ State.reset.seqInRange ∧ State.reset.frHoldsFrame ∧
    State.reset.traceIsPasses ∧ State.reset.bufferInRange

/-! ## Host programs -/

/-- R82: the word of `PRINT pos, cp` is `0x1000 OR (pos << 10) OR cp`; it is the encoding of that PRINT and decodes to
it, for every operand in range. -/
def Obligations.PrintLineWord : Prop :=
  ∀ pos cp : Nat, pos < 4 → cp < 256 →
    (printWord pos cp).toNat = 0x1000 ||| (pos <<< 10) ||| cp ∧
    encode (.print (BitVec.ofNat 2 pos) (BitVec.ofNat 8 cp)) = .command (printWord pos cp) ∧
    decodeCommand (printWord pos cp) = .ok (.print (BitVec.ofNat 2 pos) (BitVec.ofNat 8 cp))

/-- R122: a text presents its first byte and every later byte is dropped; an empty text presents 0x00, which has no
glyph. -/
def Obligations.TextPresentsFirstByte : Prop :=
  (∀ (pos : Nat) (c : Byte) (more : List Byte),
    (PrintLine.prints pos (c :: more)).word = (PrintLine.print pos c.toNat).word) ∧
  (∀ pos : Nat, (PrintLine.prints pos []).word = (PrintLine.print pos 0x00).word) ∧
  translateCp 0x00#8 = { pat := 0xFF#8, noglyph := true }

/-- R130: REFRESH is the writer's prints and then DISPLAY; with no writer it is exactly one DISPLAY. -/
def Obligations.RefreshExpansion : Prop :=
  (∀ body : List PrintLine,
    (AsmLine.refresh body).expand = (body.flatMap (fun p => (AsmLine.print p).expand)) ++ AsmLine.display.expand) ∧
  (AsmLine.refresh []).expand = AsmLine.display.expand

/-- R206, R208: a command the host presents during a pass and holds is neither lost nor queued: it has no effect until the
pass ends, and is then run as its instruction. -/
def Obligations.HeldCommandRunsAfterPass : Prop :=
  ∀ (s : State) (j : Fin 4) (k : Fin 59) (h : Nat) (w : CmdWord) (i : Instr),
    s.resetDone = true → s.seqInRange → s.seq = .busy j k h → s.inputs = [] → decodeCommand w = .ok i →
    ∃ u, runSteps (edgesLeft j k h s.stepCycles) s = .next u ∧ u.seq = .idle ∧
      hostRun (edgesLeft j k h s.stepCycles + 1) [.command w] s = exec i u
end

