-- ==== Sys2Proof/Laws/Buffer.lean ====
section
/-! SUPPORT. Reading and writing the slots of BUF (R51: one whole slot at a time). -/

namespace Sys2Proof.Machine

@[simp] theorem Buffer.get_zero (b : Buffer) : b.get 0 = b.slot0 := rfl
@[simp] theorem Buffer.get_one (b : Buffer) : b.get 1 = b.slot1 := rfl
@[simp] theorem Buffer.get_two (b : Buffer) : b.get 2 = b.slot2 := rfl
@[simp] theorem Buffer.get_three (b : Buffer) : b.get 3 = b.slot3 := rfl
@[simp] theorem Buffer.set_zero (b : Buffer) (v : Byte) : b.set 0 v = { b with slot0 := v } := rfl

/-- A read after a write to the same slot gives the value written. -/
theorem Buffer.get_set_same (b : Buffer) (j : Fin 4) (v : Byte) : (b.set j v).get j = v := by
  fin_cases j <;> rfl

/-- A write leaves every other slot alone. -/
theorem Buffer.get_set_of_ne (b : Buffer) {i j : Fin 4} (v : Byte) (h : i ≠ j) : (b.set j v).get i = b.get i := by
  fin_cases i <;> fin_cases j <;> first | rfl | exact absurd rfl h

@[simp] theorem defaultBuffer_slot0 : defaultBuffer.slot0 = defaultPattern := rfl
@[simp] theorem defaultBuffer_slot1 : defaultBuffer.slot1 = defaultPattern := rfl
@[simp] theorem defaultBuffer_slot2 : defaultBuffer.slot2 = defaultPattern := rfl
@[simp] theorem defaultBuffer_slot3 : defaultBuffer.slot3 = defaultPattern := rfl
@[simp] theorem defaultBuffer_get (j : Fin 4) : defaultBuffer.get j = defaultPattern := by
  fin_cases j <;> rfl

end Sys2Proof.Machine
end

