-- ==== Sys2Proof/Laws/Decode.lean ====
section
/-! SUPPORT. What the decoder can answer, and what matching a row means. -/

namespace Sys2Proof

theorem CommandRow.matchesWord_iff (r : CommandRow) (w : CmdWord) :
    r.matchesWord w = true ↔ w &&& r.mask = r.pattern := decide_eq_true_iff

/-- A command word decodes to a PRINT or a DISPLAY, and the operands are its fields. -/
theorem decodeCommand_cases {w : CmdWord} {i : Instr} (h : decodeCommand w = .ok i) :
    i = .print (aField w) (dField w) ∨ i = .display := by
  unfold decodeCommand at h
  split_ifs at h <;> cases h
  · exact .inl rfl
  · exact .inr rfl

end Sys2Proof
end

