-- ==== Sys2Proof/Laws/State.lean ====
section
/-! SUPPORT. One lemma per field per named operation, so that no proof unfolds a record update. -/

namespace Sys2Proof.Machine

variable (s : State)

@[simp] theorem newCycle_buf : (newCycle s).buf = s.buf := rfl
@[simp] theorem newCycle_clk : (newCycle s).clk = s.clk := rfl
@[simp] theorem newCycle_dat : (newCycle s).dat = s.dat := rfl
@[simp] theorem newCycle_trace : (newCycle s).trace = s.trace := rfl
@[simp] theorem newCycle_fr : (newCycle s).fr = s.fr := rfl
@[simp] theorem newCycle_seq : (newCycle s).seq = s.seq := rfl
@[simp] theorem newCycle_diag : (newCycle s).diag = none := rfl
@[simp] theorem newCycle_romCp : (newCycle s).romCp = s.romCp := rfl
@[simp] theorem newCycle_digitCount : (newCycle s).digitCount = s.digitCount := rfl
@[simp] theorem newCycle_stepCycles : (newCycle s).stepCycles = s.stepCycles := rfl
@[simp] theorem newCycle_inputs : (newCycle s).inputs = s.inputs := rfl
@[simp] theorem newCycle_resetDone : (newCycle s).resetDone = s.resetDone := rfl
@[simp] theorem newCycle_cycle : (newCycle s).cycle = s.cycle + 1 := rfl

@[simp] theorem pinWrite_clk_buf (l : Level) : (pinWrite ⟨.clk, l⟩ s).buf = s.buf := rfl
@[simp] theorem pinWrite_clk_clk (l : Level) : (pinWrite ⟨.clk, l⟩ s).clk = l := rfl
@[simp] theorem pinWrite_clk_dat (l : Level) : (pinWrite ⟨.clk, l⟩ s).dat = s.dat := rfl
@[simp] theorem pinWrite_clk_trace (l : Level) : (pinWrite ⟨.clk, l⟩ s).trace = s.trace ++ [⟨.clk, l⟩] := rfl
@[simp] theorem pinWrite_clk_fr (l : Level) : (pinWrite ⟨.clk, l⟩ s).fr = s.fr := rfl
@[simp] theorem pinWrite_clk_seq (l : Level) : (pinWrite ⟨.clk, l⟩ s).seq = s.seq := rfl
@[simp] theorem pinWrite_clk_diag (l : Level) : (pinWrite ⟨.clk, l⟩ s).diag = s.diag := rfl
@[simp] theorem pinWrite_clk_romCp (l : Level) : (pinWrite ⟨.clk, l⟩ s).romCp = s.romCp := rfl
@[simp] theorem pinWrite_clk_digitCount (l : Level) : (pinWrite ⟨.clk, l⟩ s).digitCount = s.digitCount := rfl
@[simp] theorem pinWrite_clk_stepCycles (l : Level) : (pinWrite ⟨.clk, l⟩ s).stepCycles = s.stepCycles := rfl
@[simp] theorem pinWrite_clk_inputs (l : Level) : (pinWrite ⟨.clk, l⟩ s).inputs = s.inputs := rfl
@[simp] theorem pinWrite_clk_resetDone (l : Level) : (pinWrite ⟨.clk, l⟩ s).resetDone = s.resetDone := rfl
@[simp] theorem pinWrite_clk_cycle (l : Level) : (pinWrite ⟨.clk, l⟩ s).cycle = s.cycle := rfl

@[simp] theorem pinWrite_dat_buf (l : Level) : (pinWrite ⟨.dat, l⟩ s).buf = s.buf := rfl
@[simp] theorem pinWrite_dat_clk (l : Level) : (pinWrite ⟨.dat, l⟩ s).clk = s.clk := rfl
@[simp] theorem pinWrite_dat_dat (l : Level) : (pinWrite ⟨.dat, l⟩ s).dat = l := rfl
@[simp] theorem pinWrite_dat_trace (l : Level) : (pinWrite ⟨.dat, l⟩ s).trace = s.trace ++ [⟨.dat, l⟩] := rfl
@[simp] theorem pinWrite_dat_fr (l : Level) : (pinWrite ⟨.dat, l⟩ s).fr = s.fr := rfl
@[simp] theorem pinWrite_dat_seq (l : Level) : (pinWrite ⟨.dat, l⟩ s).seq = s.seq := rfl
@[simp] theorem pinWrite_dat_diag (l : Level) : (pinWrite ⟨.dat, l⟩ s).diag = s.diag := rfl
@[simp] theorem pinWrite_dat_romCp (l : Level) : (pinWrite ⟨.dat, l⟩ s).romCp = s.romCp := rfl
@[simp] theorem pinWrite_dat_digitCount (l : Level) : (pinWrite ⟨.dat, l⟩ s).digitCount = s.digitCount := rfl
@[simp] theorem pinWrite_dat_stepCycles (l : Level) : (pinWrite ⟨.dat, l⟩ s).stepCycles = s.stepCycles := rfl
@[simp] theorem pinWrite_dat_inputs (l : Level) : (pinWrite ⟨.dat, l⟩ s).inputs = s.inputs := rfl
@[simp] theorem pinWrite_dat_resetDone (l : Level) : (pinWrite ⟨.dat, l⟩ s).resetDone = s.resetDone := rfl
@[simp] theorem pinWrite_dat_cycle (l : Level) : (pinWrite ⟨.dat, l⟩ s).cycle = s.cycle := rfl

@[simp] theorem writeSlot_buf (j : Fin 4) (v : Byte) : (writeSlot j v s).buf = s.buf.set j v := rfl
@[simp] theorem writeSlot_clk (j : Fin 4) (v : Byte) : (writeSlot j v s).clk = s.clk := rfl
@[simp] theorem writeSlot_dat (j : Fin 4) (v : Byte) : (writeSlot j v s).dat = s.dat := rfl
@[simp] theorem writeSlot_trace (j : Fin 4) (v : Byte) : (writeSlot j v s).trace = s.trace := rfl
@[simp] theorem writeSlot_fr (j : Fin 4) (v : Byte) : (writeSlot j v s).fr = s.fr := rfl
@[simp] theorem writeSlot_seq (j : Fin 4) (v : Byte) : (writeSlot j v s).seq = s.seq := rfl
@[simp] theorem writeSlot_diag (j : Fin 4) (v : Byte) : (writeSlot j v s).diag = s.diag := rfl
@[simp] theorem writeSlot_romCp (j : Fin 4) (v : Byte) : (writeSlot j v s).romCp = s.romCp := rfl
@[simp] theorem writeSlot_digitCount (j : Fin 4) (v : Byte) : (writeSlot j v s).digitCount = s.digitCount := rfl
@[simp] theorem writeSlot_stepCycles (j : Fin 4) (v : Byte) : (writeSlot j v s).stepCycles = s.stepCycles := rfl
@[simp] theorem writeSlot_inputs (j : Fin 4) (v : Byte) : (writeSlot j v s).inputs = s.inputs := rfl
@[simp] theorem writeSlot_resetDone (j : Fin 4) (v : Byte) : (writeSlot j v s).resetDone = s.resetDone := rfl
@[simp] theorem writeSlot_cycle (j : Fin 4) (v : Byte) : (writeSlot j v s).cycle = s.cycle := rfl

@[simp] theorem raise_buf (c : Cause) (cp : Byte) : (raise c cp s).buf = s.buf := rfl
@[simp] theorem raise_clk (c : Cause) (cp : Byte) : (raise c cp s).clk = s.clk := rfl
@[simp] theorem raise_dat (c : Cause) (cp : Byte) : (raise c cp s).dat = s.dat := rfl
@[simp] theorem raise_trace (c : Cause) (cp : Byte) : (raise c cp s).trace = s.trace := rfl
@[simp] theorem raise_fr (c : Cause) (cp : Byte) : (raise c cp s).fr = s.fr := rfl
@[simp] theorem raise_seq (c : Cause) (cp : Byte) : (raise c cp s).seq = s.seq := rfl
@[simp] theorem raise_diag (c : Cause) (cp : Byte) : (raise c cp s).diag = some { cause := c, char := cp } := rfl
@[simp] theorem raise_romCp (c : Cause) (cp : Byte) : (raise c cp s).romCp = s.romCp := rfl
@[simp] theorem raise_digitCount (c : Cause) (cp : Byte) : (raise c cp s).digitCount = s.digitCount := rfl
@[simp] theorem raise_stepCycles (c : Cause) (cp : Byte) : (raise c cp s).stepCycles = s.stepCycles := rfl
@[simp] theorem raise_inputs (c : Cause) (cp : Byte) : (raise c cp s).inputs = s.inputs := rfl
@[simp] theorem raise_resetDone (c : Cause) (cp : Byte) : (raise c cp s).resetDone = s.resetDone := rfl
@[simp] theorem raise_cycle (c : Cause) (cp : Byte) : (raise c cp s).cycle = s.cycle := rfl

@[simp] theorem loadFrame_buf (j : Fin 4) : (loadFrame j s).buf = s.buf := rfl
@[simp] theorem loadFrame_clk (j : Fin 4) : (loadFrame j s).clk = s.clk := rfl
@[simp] theorem loadFrame_dat (j : Fin 4) : (loadFrame j s).dat = s.dat := rfl
@[simp] theorem loadFrame_trace (j : Fin 4) : (loadFrame j s).trace = s.trace := rfl
@[simp] theorem loadFrame_fr (j : Fin 4) : (loadFrame j s).fr = frameWord j (s.buf.get j) := rfl
@[simp] theorem loadFrame_seq (j : Fin 4) : (loadFrame j s).seq = .busy j 0 0 := rfl
@[simp] theorem loadFrame_diag (j : Fin 4) : (loadFrame j s).diag = s.diag := rfl
@[simp] theorem loadFrame_romCp (j : Fin 4) : (loadFrame j s).romCp = s.romCp := rfl
@[simp] theorem loadFrame_digitCount (j : Fin 4) : (loadFrame j s).digitCount = s.digitCount := rfl
@[simp] theorem loadFrame_stepCycles (j : Fin 4) : (loadFrame j s).stepCycles = s.stepCycles := rfl
@[simp] theorem loadFrame_inputs (j : Fin 4) : (loadFrame j s).inputs = s.inputs := rfl
@[simp] theorem loadFrame_resetDone (j : Fin 4) : (loadFrame j s).resetDone = s.resetDone := rfl
@[simp] theorem loadFrame_cycle (j : Fin 4) : (loadFrame j s).cycle = s.cycle := rfl

@[simp] theorem becomeIdle_buf : (becomeIdle s).buf = s.buf := rfl
@[simp] theorem becomeIdle_clk : (becomeIdle s).clk = s.clk := rfl
@[simp] theorem becomeIdle_dat : (becomeIdle s).dat = s.dat := rfl
@[simp] theorem becomeIdle_trace : (becomeIdle s).trace = s.trace := rfl
@[simp] theorem becomeIdle_fr : (becomeIdle s).fr = Config.idleFr s.cycle := rfl
@[simp] theorem becomeIdle_seq : (becomeIdle s).seq = .idle := rfl
@[simp] theorem becomeIdle_diag : (becomeIdle s).diag = s.diag := rfl
@[simp] theorem becomeIdle_romCp : (becomeIdle s).romCp = s.romCp := rfl
@[simp] theorem becomeIdle_digitCount : (becomeIdle s).digitCount = s.digitCount := rfl
@[simp] theorem becomeIdle_stepCycles : (becomeIdle s).stepCycles = s.stepCycles := rfl
@[simp] theorem becomeIdle_inputs : (becomeIdle s).inputs = s.inputs := rfl
@[simp] theorem becomeIdle_resetDone : (becomeIdle s).resetDone = s.resetDone := rfl
@[simp] theorem becomeIdle_cycle : (becomeIdle s).cycle = s.cycle := rfl

@[simp] theorem resetRegisters_buf : (resetRegisters s).buf = defaultBuffer := rfl
@[simp] theorem resetRegisters_clk : (resetRegisters s).clk = false := rfl
@[simp] theorem resetRegisters_dat : (resetRegisters s).dat = false := rfl
@[simp] theorem resetRegisters_trace : (resetRegisters s).trace = [] := rfl
@[simp] theorem resetRegisters_fr : (resetRegisters s).fr = frameWord 0 defaultPattern := rfl
@[simp] theorem resetRegisters_seq : (resetRegisters s).seq = .busy 0 0 0 := rfl
@[simp] theorem resetRegisters_diag : (resetRegisters s).diag = s.diag := rfl
@[simp] theorem resetRegisters_romCp : (resetRegisters s).romCp = s.romCp := rfl
@[simp] theorem resetRegisters_digitCount : (resetRegisters s).digitCount = s.digitCount := rfl
@[simp] theorem resetRegisters_stepCycles : (resetRegisters s).stepCycles = s.stepCycles := rfl
@[simp] theorem resetRegisters_inputs : (resetRegisters s).inputs = s.inputs := rfl
@[simp] theorem resetRegisters_resetDone : (resetRegisters s).resetDone = true := rfl
@[simp] theorem resetRegisters_cycle : (resetRegisters s).cycle = s.cycle := rfl

end Sys2Proof.Machine
end

