-- ==== Sys2Proof/Laws/Ops.lean ====
section
/-! SUPPORT. What the named operations can do: PinWrite on any event, accepting a command, the effect of PRINT. -/

namespace Sys2Proof.Machine

variable (s : State)

@[simp] theorem pinWrite_trace (e : PinEvent) : (pinWrite e s).trace = s.trace ++ [e] := by
  obtain ⟨p, l⟩ := e; cases p <;> rfl
@[simp] theorem pinWrite_buf (e : PinEvent) : (pinWrite e s).buf = s.buf := by
  obtain ⟨p, l⟩ := e; cases p <;> rfl
@[simp] theorem pinWrite_fr (e : PinEvent) : (pinWrite e s).fr = s.fr := by
  obtain ⟨p, l⟩ := e; cases p <;> rfl
@[simp] theorem pinWrite_seq (e : PinEvent) : (pinWrite e s).seq = s.seq := by
  obtain ⟨p, l⟩ := e; cases p <;> rfl
@[simp] theorem pinWrite_diag (e : PinEvent) : (pinWrite e s).diag = s.diag := by
  obtain ⟨p, l⟩ := e; cases p <;> rfl
@[simp] theorem pinWrite_romCp (e : PinEvent) : (pinWrite e s).romCp = s.romCp := by
  obtain ⟨p, l⟩ := e; cases p <;> rfl
@[simp] theorem pinWrite_digitCount (e : PinEvent) : (pinWrite e s).digitCount = s.digitCount := by
  obtain ⟨p, l⟩ := e; cases p <;> rfl
@[simp] theorem pinWrite_stepCycles (e : PinEvent) : (pinWrite e s).stepCycles = s.stepCycles := by
  obtain ⟨p, l⟩ := e; cases p <;> rfl
@[simp] theorem pinWrite_inputs (e : PinEvent) : (pinWrite e s).inputs = s.inputs := by
  obtain ⟨p, l⟩ := e; cases p <;> rfl
@[simp] theorem pinWrite_resetDone (e : PinEvent) : (pinWrite e s).resetDone = s.resetDone := by
  obtain ⟨p, l⟩ := e; cases p <;> rfl
@[simp] theorem pinWrite_cycle (e : PinEvent) : (pinWrite e s).cycle = s.cycle := by
  obtain ⟨p, l⟩ := e; cases p <;> rfl

/-- A PinWrite sets CLK exactly when its event is on the clock line. -/
theorem pinWrite_clk (e : PinEvent) : (pinWrite e s).clk = if e.pin = .clk then e.level else s.clk := by
  obtain ⟨p, l⟩ := e; cases p <;> rfl
/-- A PinWrite sets DAT exactly when its event is on the data line. -/
theorem pinWrite_dat (e : PinEvent) : (pinWrite e s).dat = if e.pin = .dat then e.level else s.dat := by
  obtain ⟨p, l⟩ := e; cases p <;> rfl

variable {s}

theorem accept_idle (f : State → State) (h : s.seq = .idle) : accept f s = .next (f (newCycle s)) := by
  simp [accept, h]

theorem accept_busy (f : State → State) {j t n} (h : s.seq = .busy j t n) : accept f s = .next s := by
  simp [accept, h]

/-- Everything `accept` can do: the effect on an idle block, nothing on a busy one. -/
theorem accept_cases {f : State → State} {t : State} (h : accept f s = .next t) :
    (s.seq = .idle ∧ t = f (newCycle s)) ∨ (s.seq ≠ .idle ∧ t = s) := by
  cases hs : s.seq with
  | idle => rw [accept_idle f hs] at h; cases h; exact .inl ⟨rfl, rfl⟩
  | busy j k n => rw [accept_busy f hs] at h; cases h; exact .inr ⟨by simp, rfl⟩

variable (s) (cp : Byte)

@[simp] theorem printEffect_buf : (printEffect cp s).buf = { s.buf with slot0 := (translateCp cp).pat } := by
  simp only [printEffect]; split_ifs <;> rfl
@[simp] theorem printEffect_diag : (printEffect cp s).diag =
    if (translateCp cp).noglyph then some { cause := .noGlyph, char := cp } else s.diag := by
  simp only [printEffect]; split_ifs <;> rfl
@[simp] theorem printEffect_clk : (printEffect cp s).clk = s.clk := by
  simp only [printEffect]; split_ifs <;> rfl
@[simp] theorem printEffect_dat : (printEffect cp s).dat = s.dat := by
  simp only [printEffect]; split_ifs <;> rfl
@[simp] theorem printEffect_trace : (printEffect cp s).trace = s.trace := by
  simp only [printEffect]; split_ifs <;> rfl
@[simp] theorem printEffect_fr : (printEffect cp s).fr = s.fr := by
  simp only [printEffect]; split_ifs <;> rfl
@[simp] theorem printEffect_seq : (printEffect cp s).seq = s.seq := by
  simp only [printEffect]; split_ifs <;> rfl
@[simp] theorem printEffect_romCp : (printEffect cp s).romCp = s.romCp := by
  simp only [printEffect]; split_ifs <;> rfl
@[simp] theorem printEffect_digitCount : (printEffect cp s).digitCount = s.digitCount := by
  simp only [printEffect]; split_ifs <;> rfl
@[simp] theorem printEffect_stepCycles : (printEffect cp s).stepCycles = s.stepCycles := by
  simp only [printEffect]; split_ifs <;> rfl
@[simp] theorem printEffect_inputs : (printEffect cp s).inputs = s.inputs := by
  simp only [printEffect]; split_ifs <;> rfl
@[simp] theorem printEffect_resetDone : (printEffect cp s).resetDone = s.resetDone := by
  simp only [printEffect]; split_ifs <;> rfl
@[simp] theorem printEffect_cycle : (printEffect cp s).cycle = s.cycle := by
  simp only [printEffect]; split_ifs <;> rfl

end Sys2Proof.Machine
end

