-- ==== Sys2Proof/Laws/PerInstr.lean ====
section
/-! SUPPORT. The family TableRow, per instruction: its encoding stands in its own row of spec/opcode_table.json. -/

namespace Sys2Proof.Laws.TableRow

/-- R78, R81: a command's word matches its row, and TRANSLATE's packet is on the lookup port. -/
def Statement : Instr → Prop
  | .print pos cp => ∃ w, encode (.print pos cp) = .command w ∧ printRow.matchesWord w = true
  | .display => ∃ w, encode .display = .command w ∧ displayRow.matchesWord w = true
  | .translate cp => encode (.translate cp) = .lookup cp

theorem print (pos : BitVec 2) (cp : Byte) : Statement (.print pos cp) := by
  refine ⟨_, rfl, decide_eq_true ?_⟩
  apply BitVec.eq_of_getLsbD_eq
  intro k hk
  interval_cases k <;> simp [printRow]

theorem display : Statement .display := ⟨_, rfl, by decide⟩

theorem translate (cp : Byte) : Statement (.translate cp) := rfl

end Sys2Proof.Laws.TableRow
end

