-- ==== Sys2Proof/Laws/Wire.lean ====
section
/-! SUPPORT. Lengths of the wire lists, and what a list of PinWrites does to the state. -/

namespace Sys2Proof.Machine

@[simp] theorem frame_length (j : Fin 4) (b : Byte) : (frame j b).length = 59 := rfl

@[simp] theorem passTrace_length (b : Buffer) : (passTrace b).length = 236 := by
  simp [passTrace]

/-- A list of PinWrites appends itself to TRACE. -/
theorem foldl_pinWrite_trace (l : List PinEvent) (s : State) :
    (l.foldl (fun s e => pinWrite e s) s).trace = s.trace ++ l := by
  induction l generalizing s with
  | nil => simp
  | cons e l ih => simp [ih]

/-- A list of PinWrites does not touch BUF. -/
theorem foldl_pinWrite_buf (l : List PinEvent) (s : State) :
    (l.foldl (fun s e => pinWrite e s) s).buf = s.buf := by
  induction l generalizing s with
  | nil => rfl
  | cons e l ih => simp [ih]

@[simp] theorem sendFrame_trace (j : Fin 4) (b : Byte) (s : State) :
    (sendFrame j b s).trace = s.trace ++ frame j b := foldl_pinWrite_trace _ _

@[simp] theorem sendFrame_buf (j : Fin 4) (b : Byte) (s : State) : (sendFrame j b s).buf = s.buf :=
  foldl_pinWrite_buf _ _

end Sys2Proof.Machine
end

