-- ==== Sys2Proof/Laws/Step.lean ====
section
/-! SUPPORT. What the sequencer's edge and the step can do: one field lemma each, the four ways a pass advances, and the
inversion of `step`. -/

namespace Sys2Proof.Machine

section
variable (j : Fin 4) (t : Fin 59) (h : Nat) (s : State)

@[simp] theorem advance_clk : (advance j t h s).clk = s.clk := by
  unfold advance; split_ifs <;> rfl
@[simp] theorem advance_dat : (advance j t h s).dat = s.dat := by
  unfold advance; split_ifs <;> rfl
@[simp] theorem advance_trace : (advance j t h s).trace = s.trace := by
  unfold advance; split_ifs <;> rfl
@[simp] theorem advance_diag : (advance j t h s).diag = s.diag := by
  unfold advance; split_ifs <;> rfl
@[simp] theorem advance_cycle : (advance j t h s).cycle = s.cycle := by
  unfold advance; split_ifs <;> rfl
@[simp] theorem advance_buf : (advance j t h s).buf = s.buf := by
  unfold advance; split_ifs <;> rfl
@[simp] theorem advance_romCp : (advance j t h s).romCp = s.romCp := by
  unfold advance; split_ifs <;> rfl
@[simp] theorem advance_digitCount : (advance j t h s).digitCount = s.digitCount := by
  unfold advance; split_ifs <;> rfl
@[simp] theorem advance_stepCycles : (advance j t h s).stepCycles = s.stepCycles := by
  unfold advance; split_ifs <;> rfl
@[simp] theorem advance_inputs : (advance j t h s).inputs = s.inputs := by
  unfold advance; split_ifs <;> rfl
@[simp] theorem advance_resetDone : (advance j t h s).resetDone = s.resetDone := by
  unfold advance; split_ifs <;> rfl

@[simp] theorem busyEdge_buf : (busyEdge j t h s).buf = s.buf := by
  unfold busyEdge; split_ifs <;> simp [microStep]
@[simp] theorem busyEdge_romCp : (busyEdge j t h s).romCp = s.romCp := by
  unfold busyEdge; split_ifs <;> simp [microStep]
@[simp] theorem busyEdge_digitCount : (busyEdge j t h s).digitCount = s.digitCount := by
  unfold busyEdge; split_ifs <;> simp [microStep]
@[simp] theorem busyEdge_stepCycles : (busyEdge j t h s).stepCycles = s.stepCycles := by
  unfold busyEdge; split_ifs <;> simp [microStep]
@[simp] theorem busyEdge_inputs : (busyEdge j t h s).inputs = s.inputs := by
  unfold busyEdge; split_ifs <;> simp [microStep]
@[simp] theorem busyEdge_resetDone : (busyEdge j t h s).resetDone = s.resetDone := by
  unfold busyEdge; split_ifs <;> simp [microStep]
@[simp] theorem busyEdge_diag : (busyEdge j t h s).diag = none := by
  unfold busyEdge; split_ifs <;> simp [microStep]
@[simp] theorem busyEdge_cycle : (busyEdge j t h s).cycle = s.cycle + 1 := by
  unfold busyEdge; split_ifs <;> simp [microStep]

/-- The trace of a busy edge: one write when the micro-step begins, none while it is held. -/
theorem busyEdge_trace : (busyEdge j t h s).trace = if h = 0 then s.trace ++ [microWrite t s.fr] else s.trace := by
  unfold busyEdge; split_ifs <;> simp [microStep]

/-- CLK after a busy edge. -/
theorem busyEdge_clk : (busyEdge j t h s).clk = if h = 0 then (microStep t s.fr s).clk else s.clk := by
  unfold busyEdge; split_ifs <;> simp [microStep, pinWrite_clk]

/-- DAT after a busy edge. -/
theorem busyEdge_dat : (busyEdge j t h s).dat = if h = 0 then (microStep t s.fr s).dat else s.dat := by
  unfold busyEdge; split_ifs <;> simp [microStep, pinWrite_dat]

/-- Everything `advance` can do with `seq` and FR: hold the micro-step, begin the next one, begin the next frame, or
become idle. -/
theorem advance_cases :
    (h < s.stepCycles - 1 ∧ (advance j t h s).seq = .busy j t (h + 1) ∧ (advance j t h s).fr = s.fr) ∨
    (s.stepCycles - 1 ≤ h ∧ ∃ ht : t.val < 58,
      (advance j t h s).seq = .busy j ⟨t.val + 1, by omega⟩ 0 ∧ (advance j t h s).fr = s.fr) ∨
    (s.stepCycles - 1 ≤ h ∧ t.val = 58 ∧ ∃ hj : j.val < 3,
      (advance j t h s).seq = .busy ⟨j.val + 1, by omega⟩ 0 0 ∧
      (advance j t h s).fr = frameWord ⟨j.val + 1, by omega⟩ (s.buf.get ⟨j.val + 1, by omega⟩)) ∨
    (s.stepCycles - 1 ≤ h ∧ t.val = 58 ∧ j.val = 3 ∧ (advance j t h s).seq = .idle) := by
  unfold advance
  split_ifs with h1 h2 h3
  · exact .inl ⟨h1, rfl, rfl⟩
  · exact .inr (.inl ⟨by omega, h2, rfl, rfl⟩)
  · exact .inr (.inr (.inl ⟨by omega, by omega, h3, rfl, rfl⟩))
  · exact .inr (.inr (.inr ⟨by omega, by omega, by omega, rfl⟩))

/-- Everything a busy edge can do with `seq` and FR. -/
theorem busyEdge_cases :
    (h < s.stepCycles - 1 ∧ (busyEdge j t h s).seq = .busy j t (h + 1) ∧ (busyEdge j t h s).fr = s.fr) ∨
    (s.stepCycles - 1 ≤ h ∧ ∃ ht : t.val < 58,
      (busyEdge j t h s).seq = .busy j ⟨t.val + 1, by omega⟩ 0 ∧ (busyEdge j t h s).fr = s.fr) ∨
    (s.stepCycles - 1 ≤ h ∧ t.val = 58 ∧ ∃ hj : j.val < 3,
      (busyEdge j t h s).seq = .busy ⟨j.val + 1, by omega⟩ 0 0 ∧
      (busyEdge j t h s).fr = frameWord ⟨j.val + 1, by omega⟩ (s.buf.get ⟨j.val + 1, by omega⟩)) ∨
    (s.stepCycles - 1 ≤ h ∧ t.val = 58 ∧ j.val = 3 ∧ (busyEdge j t h s).seq = .idle) := by
  unfold busyEdge
  have key := advance_cases j t h
    (if h = 0 then microStep t (newCycle s).fr (newCycle s) else newCycle s)
  by_cases h0 : h = 0
  · simp only [h0, if_true] at key ⊢
    simpa [microStep] using key
  · simp only [h0, if_false] at key ⊢
    simpa using key

end

/-! ## Edges -/

theorem clockEdge_reset {p : Ports} (s : State) (hp : p.rst = true) : clockEdge p s = .next (resetEdge s) := by
  simp [clockEdge, hp]

theorem clockEdge_busy {p : Ports} {s : State} {j t h} (hp : p.rst = false) (hr : s.resetDone = true)
    (hs : s.seq = .busy j t h) : clockEdge p s = .next (busyEdge j t h s) := by
  simp [clockEdge, hp, hr, hs]

theorem clockEdge_quiet {p : Ports} {s : State} (hp : p.rst = false) (hr : s.resetDone = true)
    (hs : s.seq = .idle) (hv : p.cmdValid = false) : clockEdge p s = .next (newCycle s) := by
  simp [clockEdge, hp, hr, hs, hv]

theorem clockEdge_command {p : Ports} {s : State} (hp : p.rst = false) (hr : s.resetDone = true)
    (hs : s.seq = .idle) (hv : p.cmdValid = true) : clockEdge p s = commandEdge p.cmd s := by
  simp [clockEdge, hp, hr, hs, hv]

theorem commandEdge_print {w : CmdWord} {s : State} {pos cp} (hs : s.seq = .idle)
    (hd : decodeCommand w = .ok (.print pos cp)) :
    commandEdge w s = .next (printEffect cp (newCycle s)) := by
  simp only [commandEdge, decode, hd, exec, execPrint, accept_idle _ hs]

theorem commandEdge_display {w : CmdWord} {s : State} (hs : s.seq = .idle)
    (hd : decodeCommand w = .ok .display) : commandEdge w s = .next (loadFrame 0 (newCycle s)) := by
  simp only [commandEdge, decode, hd, exec, execDisplay, accept_idle _ hs]

theorem commandEdge_illegal {w : CmdWord} {s : State} {why : IllegalWord}
    (hd : decodeCommand w = .error why) : commandEdge w s = .refused (.illegalCommand w why) := by
  simp only [commandEdge, decode, hd]

/-- Everything an accepting edge with a next state can do. -/
theorem commandEdge_cases {w : CmdWord} {s t : State} (hs : s.seq = .idle) (h : commandEdge w s = .next t) :
    (decodeCommand w = .ok (.print (aField w) (dField w)) ∧ t = printEffect (dField w) (newCycle s)) ∨
    (decodeCommand w = .ok .display ∧ t = loadFrame 0 (newCycle s)) := by
  simp only [commandEdge, decode] at h
  cases hd : decodeCommand w with
  | error e => rw [hd] at h; cases h
  | ok i =>
    rw [hd] at h
    rcases decodeCommand_cases hd with rfl | rfl
    · simp only [exec, execPrint, accept_idle _ hs, Host.Outcome.next.injEq] at h
      exact .inl ⟨rfl, h.symm⟩
    · simp only [exec, execDisplay, accept_idle _ hs, Host.Outcome.next.injEq] at h
      exact .inr ⟨rfl, h.symm⟩

/-- Everything a clock edge with a next state can do. -/
theorem clockEdge_cases {p : Ports} {s t : State} (h : clockEdge p s = .next t) :
    (p.rst = true ∧ t = resetEdge s) ∨
    (p.rst = false ∧ s.resetDone = true ∧
      ((s.seq = .idle ∧ p.cmdValid = false ∧ t = newCycle s) ∨
       (s.seq = .idle ∧ p.cmdValid = true ∧ decodeCommand p.cmd = .ok (.print (aField p.cmd) (dField p.cmd)) ∧
          t = printEffect (dField p.cmd) (newCycle s)) ∨
       (s.seq = .idle ∧ p.cmdValid = true ∧ decodeCommand p.cmd = .ok .display ∧ t = loadFrame 0 (newCycle s)) ∨
       (∃ j k n, s.seq = .busy j k n ∧ t = busyEdge j k n s))) := by
  cases hp : p.rst with
  | true => rw [clockEdge_reset s hp] at h; cases h; exact .inl ⟨rfl, rfl⟩
  | false =>
    cases hr : s.resetDone with
    | false => simp [clockEdge, hp, hr] at h
    | true =>
      refine .inr ⟨rfl, rfl, ?_⟩
      cases hs : s.seq with
      | busy j k n =>
        rw [clockEdge_busy hp hr hs] at h; cases h
        exact .inr (.inr (.inr ⟨j, k, n, rfl, rfl⟩))
      | idle =>
        cases hv : p.cmdValid with
        | false => rw [clockEdge_quiet hp hr hs hv] at h; cases h; exact .inl ⟨rfl, rfl, rfl⟩
        | true =>
          rw [clockEdge_command hp hr hs hv] at h
          rcases commandEdge_cases hs h with ⟨hd, rfl⟩ | ⟨hd, rfl⟩
          · exact .inr (.inl ⟨rfl, rfl, hd, rfl⟩)
          · exact .inr (.inr (.inl ⟨rfl, rfl, hd, rfl⟩))

/-! ## The step -/

theorem step_lookup {s : State} {cp : Byte} {rest : List HostEvent} (h : s.inputs = .lookup cp :: rest) :
    step s = .next { s with inputs := rest, romCp := cp } := by
  simp [step, h, hostEvent, exec, execTranslate, decodeLookup]

theorem step_clock {s : State} {p : Ports} {rest : List HostEvent} (h : s.inputs = .clock p :: rest) :
    step s = clockEdge p { s with inputs := rest } := by
  simp [step, h, hostEvent]

theorem step_quiet {s : State} (h : s.inputs = []) : step s = clockEdge quietPorts { s with inputs := s.inputs.tail } := by
  cases s; simp_all [step]

/-- A step that is no lookup is a clock edge with the ports of the next event (quiet ones where there is none). -/
theorem step_edge {s : State} (h : s.lookupNext = false) :
    step s = clockEdge (nextPorts s.inputs) { s with inputs := s.inputs.tail } := by
  cases hi : s.inputs with
  | nil => rw [step_quiet hi]; simp [nextPorts, hi]
  | cons e rest =>
    cases e with
    | lookup cp => simp [State.lookupNext, hi] at h
    | clock p => rw [step_clock hi]; rfl

/-- Everything a step with a next state can do: a lookup, or a clock edge (`clockEdge_cases`). -/
theorem step_cases {s t : State} (h : step s = .next t) :
    (∃ cp rest, s.inputs = .lookup cp :: rest ∧ t = { s with inputs := rest, romCp := cp }) ∨
    (s.lookupNext = false ∧ clockEdge (nextPorts s.inputs) { s with inputs := s.inputs.tail } = .next t) := by
  cases hl : s.lookupNext with
  | false => exact .inr ⟨rfl, by rw [← step_edge hl]; exact h⟩
  | true =>
    cases hi : s.inputs with
    | nil => simp [State.lookupNext, hi] at hl
    | cons e rest =>
      cases e with
      | clock p => simp [State.lookupNext, hi] at hl
      | lookup cp => rw [step_lookup hi] at h; cases h; exact .inl ⟨cp, rest, rfl, rfl⟩

/-- Where no lookup comes first, RST of the next edge is what `resetNext` says. -/
theorem nextPorts_rst {s : State} (h : s.lookupNext = false) : (nextPorts s.inputs).rst = s.resetNext := by
  cases hi : s.inputs with
  | nil => simp [State.resetNext, hi, nextPorts, quietPorts]
  | cons e rest => cases e <;> simp_all [State.resetNext, State.lookupNext, nextPorts]

theorem step_reset {s : State} (hl : s.lookupNext = false) (hp : s.resetNext = true) :
    step s = .next (resetEdge { s with inputs := s.inputs.tail }) := by
  rw [step_edge hl]; exact clockEdge_reset _ ((nextPorts_rst hl).trans hp)

theorem step_busy {s : State} {j k n} (hl : s.lookupNext = false) (hp : s.resetNext = false)
    (hr : s.resetDone = true) (hs : s.seq = .busy j k n) :
    step s = .next (busyEdge j k n { s with inputs := s.inputs.tail }) := by
  rw [step_edge hl]
  exact clockEdge_busy (s := { s with inputs := s.inputs.tail }) ((nextPorts_rst hl).trans hp) hr hs

theorem step_idle_quiet {s : State} (hl : s.lookupNext = false) (hp : s.resetNext = false)
    (hr : s.resetDone = true) (hs : s.seq = .idle) (hv : (nextPorts s.inputs).cmdValid = false) :
    step s = .next (newCycle { s with inputs := s.inputs.tail }) := by
  rw [step_edge hl]
  exact clockEdge_quiet (s := { s with inputs := s.inputs.tail }) ((nextPorts_rst hl).trans hp) hr hs hv

theorem step_command {s : State} (hl : s.lookupNext = false) (hp : s.resetNext = false)
    (hr : s.resetDone = true) (hs : s.seq = .idle) (hv : (nextPorts s.inputs).cmdValid = true) :
    step s = commandEdge (nextPorts s.inputs).cmd { s with inputs := s.inputs.tail } := by
  rw [step_edge hl]
  exact clockEdge_command (s := { s with inputs := s.inputs.tail }) ((nextPorts_rst hl).trans hp) hr hs hv

/-- Where the next `n + 1` steps are running edges, the next one is no lookup and no reset. -/
theorem runningEdges_head {n : Nat} {s : State} (h : runningEdges (n + 1) s) :
    s.lookupNext = false ∧ s.resetNext = false := by
  cases hi : s.inputs with
  | nil => simp [State.lookupNext, State.resetNext, hi]
  | cons e rest =>
    have he := h e (by simp [hi])
    cases e <;> simp_all [State.lookupNext, State.resetNext, HostEvent.isRunningEdge]

/-- After one step's event is taken, one running edge fewer is left. -/
theorem runningEdges_tail {n : Nat} {s t : State} (h : runningEdges (n + 1) s) (ht : t.inputs = s.inputs.tail) :
    runningEdges n t := by
  intro e he
  apply h
  rw [ht] at he
  cases hi : s.inputs with
  | nil => simp [hi] at he
  | cons a rest => simp [hi] at he ⊢; exact .inr he

/-- A shorter stretch of running edges. -/
theorem runningEdges_mono {m n : Nat} {s : State} (hmn : m ≤ n) (h : runningEdges n s) : runningEdges m s :=
  fun e he => h e ((List.take_subset_take_left s.inputs hmn) he)

theorem runSteps_zero (s : State) : runSteps 0 s = .next s := rfl

theorem runSteps_succ {s t : State} (n : Nat) (h : step s = .next t) : runSteps (n + 1) s = runSteps n t := by
  simp [runSteps, h]

/-- Runs compose. -/
theorem runSteps_add {s t : State} (m n : Nat) (h : runSteps m s = .next t) :
    runSteps (m + n) s = runSteps n t := by
  induction m generalizing s with
  | zero => cases h; simp
  | succ m ih =>
    rw [Nat.succ_add]
    cases hs : step s with
    | next u => rw [runSteps_succ _ hs] at h ⊢; exact ih h
    | fault r => simp [runSteps, hs] at h
    | refused r => simp [runSteps, hs] at h

end Sys2Proof.Machine
end

