-- ==== Sys2Proof/Tests/Slice0.lean ====
section
/-! SUPPORT. Tests: words written out from the spec's encodings, single steps against the vectors of
spec/95_test_vectors.md, the well-formedness smoke tests, and a witness for the hypotheses of each statement. -/

namespace Sys2Proof.Tests

open Sys2Proof Sys2Proof.Machine

/-- The outcome is a next state with the given property. -/
def nextIs (o : Host.Outcome State Fault Refusal) (p : State → Bool) : Bool :=
  match o with
  | .next t => p t
  | .fault _ => false
  | .refused _ => false

/-- The outcome is the given refusal. -/
def refusedWith (o : Host.Outcome State Fault Refusal) (r : Refusal) : Bool :=
  match o with
  | .next _ => false
  | .fault _ => false
  | .refused r' => decide (r' = r)

/-- A block that finished its initial pass (V10: BUF at 0xFE, CLK = 0, DAT = 1). -/
def idleBlock : State := { State.reset with seq := .idle, dat := true }

/-- The same with the host's next event. -/
def idleWith (e : HostEvent) : State := { idleBlock with inputs := [e] }

/-- A block in the middle of a pass. -/
def busyBlock (j : Fin 4) (t : Fin 59) (h : Nat) : State :=
  { State.reset with seq := .busy j t h, fr := frameWord j 0xFE#8 }

/-- A line's levels as a bit string, first level in the most significant of 59 bits. -/
def levels (v : BitVec 59) : List Level := (List.range 59).map (fun k => v.getLsbD (58 - k))

/-! ## Decoding: words written bit by bit from R77, R78, R81 -/

/-- OP 0001, A 11, RSV 00, D 00110101 (V2: PRINT 3, '5'). -/
theorem test_decode_print : decodeCommand 0b0001110000110101#16 = .ok (.print 3#2 0x35#8) := by decide
/-- OP 0001, A 10, RSV 00, D 01010011 (P4: PRINT 2, 'S', word 0x1853). -/
theorem test_decode_print_fields : decodeCommand 0b0001100001010011#16 = .ok (.print 2#2 0x53#8) := by decide
/-- OP 0010 and zeros (V13). -/
theorem test_decode_display : decodeCommand 0b0010000000000000#16 = .ok .display := by decide
/-- ROM_CP 00110101 (R81). -/
theorem test_decode_translate : decode (.lookup 0b00110101#8) = .ok (.translate 0x35#8) := by decide
/-- V13: 0x1135 has RSV = 1. -/
theorem test_decode_rsv : decodeCommand 0b0001000100110101#16 = .error .reservedField := by decide
/-- V13: 0x2400 has A = 1 on DISPLAY. -/
theorem test_decode_display_operand : decodeCommand 0b0010010000000000#16 = .error .displayOperand := by decide
/-- V13: 0x3000 is no SEND. -/
theorem test_decode_reserved : decodeCommand 0b0011000000000000#16 = .error .reservedOpcode := by decide
/-- The encodings of R82, against words of V2 and V13. -/
theorem test_encode : encode (.print 3#2 0x35#8) = .command 0x1C35#16 ∧ encode .display = .command 0x2000#16 ∧
    encode (.translate 0x35#8) = .lookup 0x35#8 := by decide
/-- The table's numbering: 16 bits for a command, 8 for the lookup, nothing else. -/
theorem test_decodeTableWord : decodeTableWord 16 0x1CFF = some (.print 3#2 0xFF#8) ∧
    decodeTableWord 16 0x2000 = some .display ∧ decodeTableWord 8 0 = some (.translate 0#8) ∧
    decodeTableWord 16 0x2001 = none ∧ decodeTableWord 8 256 = none := by decide

/-! ## Well-formedness: each check refuses an ill-formed operand (R82) -/

theorem test_pos_out_of_range : posInRange 4 = false ∧ posInRange 3 = true := by decide
theorem test_cp_out_of_range : cpInRange 256 = false ∧ cpInRange 255 = true := by decide
theorem test_line_ill_formed : (AsmLine.print (.print 4 0)).wellFormed = false ∧
    (AsmLine.print (.print 0 256)).wellFormed = false ∧ (AsmLine.print (.prints 4 [])).wellFormed = false ∧
    (AsmLine.translate 256).wellFormed = false ∧ (AsmLine.refresh [.print 0 256]).wellFormed = false := by decide
theorem test_assemble_refuses : assemble [.reset, .print (.print 4 0)] = none := by decide

/-! ## TRANSLATE (V9) -/

/-- '5', '8', 'S' (R24). -/
theorem test_translate_known : translateCp 0x35#8 = ⟨0xB6#8, false⟩ ∧ translateCp 0x38#8 = ⟨0xFE#8, false⟩ ∧
    translateCp 0x53#8 = ⟨0xB6#8, false⟩ := by decide
/-- 0x1F, 0x7F, 0x80, 0xFF lie outside the table (R104). -/
theorem test_translate_outside : translateCp 0x1F#8 = ⟨0xFF#8, true⟩ ∧ translateCp 0x7F#8 = ⟨0xFF#8, true⟩ ∧
    translateCp 0x80#8 = ⟨0xFF#8, true⟩ ∧ translateCp 0xFF#8 = ⟨0xFF#8, true⟩ := by decide
/-- A table with a sentinel entry at index 94, and a glyph at index 0 (R102, R103 at the ends of the range). -/
theorem test_translate_ends : translateWith (fun i => if i = 94 then 0xFF#8 else 0x01#8) 0x7E#8 = ⟨0xFF#8, true⟩ ∧
    translateWith (fun i => if i = 94 then 0xFF#8 else 0x01#8) 0x20#8 = ⟨0x01#8, false⟩ := by decide
/-- V16: the lookup answers while the block is busy, and takes no edge. -/
theorem test_lookup_step : nextIs (step { busyBlock 1 7 0 with inputs := [.lookup 0x35#8] }) (fun t =>
    decide (t.romPat = 0xB6#8 ∧ t.romNoglyph = false ∧ t.seq = .busy 1 7 0 ∧ t.cycle = 0)) = true := by decide

/-! ## PRINT (V10) -/

theorem test_print_glyph : nextIs (exec (.print 3#2 0x35#8) idleBlock) (fun t =>
    decide (t.buf = ⟨0xB6#8, 0xFE#8, 0xFE#8, 0xFE#8⟩ ∧ t.diag = none ∧ t.seq = .idle)) = true := by decide
theorem test_print_no_glyph : nextIs (exec (.print 1#2 0x00#8) idleBlock) (fun t =>
    decide (t.buf = ⟨0xFF#8, 0xFE#8, 0xFE#8, 0xFE#8⟩ ∧ t.diagValid = true ∧ t.diagChar = 0x00#8 ∧
      t.trace = [] ∧ t.dat = true)) = true := by decide

/-! ## DISPLAY and the sequencer (V14, V15) -/

/-- V14 edge 239: FR <- 0x1FFFF. -/
theorem test_display_accept : nextIs (exec .display { idleBlock with buf := ⟨0xFF#8, 0xFE#8, 0xFE#8, 0xFE#8⟩ })
    (fun t => decide (t.fr = 0x1FFFF#18 ∧ t.seq = .busy 0 0 0 ∧ t.trace = [])) = true := by decide
/-- V14 edge 4: C1. -/
theorem test_edge_clock_high : nextIs (step (busyBlock 0 2 0)) (fun t =>
    decide (t.seq = .busy 0 3 0 ∧ t.clk = true ∧ t.trace = [⟨.clk, true⟩])) = true := by decide
/-- V14 edge 60: D1, and the frame of slot 1 is loaded. -/
theorem test_edge_next_frame : nextIs (step (busyBlock 0 58 0)) (fun t =>
    decide (t.seq = .busy 1 0 0 ∧ t.fr = 0x2FFFE#18 ∧ t.dat = true)) = true := by decide
/-- V14 edge 237: D1, and the pass is over. -/
theorem test_edge_to_idle : nextIs (step (busyBlock 3 58 0)) (fun t =>
    decide (t.seq = .idle ∧ t.dat = true ∧ t.busyOut = false)) = true := by decide
/-- V15 edges 2 and 3: with STEP_CYCLES = 2 the write is made once and then held. -/
theorem test_edge_hold : nextIs (step { busyBlock 0 0 0 with stepCycles := 2 }) (fun t =>
      decide (t.seq = .busy 0 0 1 ∧ t.trace = [⟨.clk, false⟩])) = true ∧
    nextIs (step { busyBlock 0 0 1 with stepCycles := 2 }) (fun t =>
      decide (t.seq = .busy 0 1 0 ∧ t.trace = [])) = true := by decide
/-- V16: a command presented under reset is not accepted, and a reset cuts a frame. -/
theorem test_reset_edge : nextIs (step { busyBlock 0 10 0 with
      inputs := [.clock { rst := true, cmdValid := true, cmd := 0x1035#16 }], dat := true,
      buf := ⟨0xB6#8, 0xFE#8, 0xFE#8, 0xFE#8⟩ }) (fun t =>
    decide (t.buf.slot0 = 0xFE#8 ∧ t.seq = .busy 0 0 0 ∧ t.dat = false ∧ t.trace = [] ∧ t.fr = 0x1FFFE#18)) = true := by
  decide
/-- V13: an illegal word is refused by name. -/
theorem test_illegal_refused :
    refusedWith (step (idleWith (.clock { rst := false, cmdValid := true, cmd := 0x2001#16 })))
      (.illegalCommand 0x2001#16 .displayOperand) = true := by decide
/-- R35: an edge before the first reset is refused. -/
theorem test_before_reset : refusedWith (step { idleBlock with resetDone := false }) .stepBeforeReset = true := by
  decide
/-- The next step after `withFetchWord` runs the word (V2, V13, R81). -/
theorem test_withFetchWord : nextIs (step (State.reset.withFetchWord 16 0x1C35)) (fun t =>
      decide (t.buf.slot0 = 0xB6#8)) = true ∧
    nextIs (step (State.reset.withFetchWord 16 0x2000)) (fun t => decide (t.seq = .busy 0 0 0)) = true ∧
    nextIs (step (State.reset.withFetchWord 8 0x38)) (fun t => decide (t.romPat = 0xFE#8)) = true := by decide

/-! ## The wire (V1, V5, V11) -/

theorem test_frame_words : frameWord 0 0xFE#8 = 0x1FFFE#18 ∧ frameWord 1 0xFE#8 = 0x2FFFE#18 ∧
    frameWord 2 0xFF#8 = 0x37FFF#18 ∧ frameWord 3 0x00#8 = 0x3BF00#18 ∧ frameWord 0 0xA5#8 = 0x1FFA5#18 := by decide
/-- V1: the clock levels after each micro-step, the same for every frame. -/
theorem test_clk_levels : (List.range 59).map (fun n => (afterMicroSteps (frameWord 0 0xFE#8) (n + 1) State.reset).clk) =
    levels 0b00100100100100100100100100100100100100100100100100100111000#59 := by decide
/-- V11: the data levels of `frame(0, 0xB6)` from DAT = 0. -/
theorem test_dat_levels : (List.range 59).map (fun n => (afterMicroSteps (frameWord 0 0xB6#8) (n + 1) State.reset).dat) =
    levels 0b00001111111111111111111111111111110001111110001111110001101#59 := by decide
/-- V11: the data levels of `frame(3, 0xFE)` from DAT = 0. -/
theorem test_dat_levels_slot3 :
    (List.range 59).map (fun n => (afterMicroSteps (frameWord 3 0xFE#8) (n + 1) State.reset).dat) =
    levels 0b01111111110001111111111111111111111111111111111111110001101#59 := by decide
/-- V5: data values at micro-steps 31, 34, ..., 52 of `frame(0, 0xB6)`. -/
theorem test_data_bits : (List.range 8).map (fun k => (frame 0 0xB6#8)[31 + 3 * k]?) =
    [true, false, true, true, false, true, true, false].map (fun b => some ⟨.dat, b⟩) := by decide
/-- R70: '5' has every segment but B and E, and no auxiliary bit. -/
theorem test_segments : [Segment.a, .b, .c, .d, .e, .f, .g, .aux].map (segmentOf 0xB6#8) =
    [true, false, true, true, false, true, true, false] := by decide

/-! ## Host programs (P4) -/

theorem test_assemble_p4 : assemble [.reset, .refresh [.prints 2 [0x53#8, 0x35#8]], .refresh [.prints 0 []],
      .refresh [], .waitIdle] =
    some [.reset, .command 0x1853#16, .command 0x2000#16, .command 0x1000#16, .command 0x2000#16,
      .command 0x2000#16, .waitIdle] := by decide
theorem test_host_holds : hostDrive [.command 0x2000#16] (busyBlock 3 58 0) =
      some (.clock (commandPorts 0x2000#16), [.command 0x2000#16]) ∧
    hostDrive [.waitIdle, .command 0x2000#16] idleBlock = some (.clock (commandPorts 0x2000#16), []) := by decide

/-! ## Witnesses: for each statement with hypotheses, operands and a state that meet them -/

def printPorts : Ports := { rst := false, cmdValid := true, cmd := 0x107F#16 }
def displayPorts : Ports := { rst := false, cmdValid := true, cmd := 0x2000#16 }
def rstPorts : Ports := { rst := true, cmdValid := true, cmd := 0x1035#16 }

theorem witness_DecodeOfEncode : (Instr.print 3#2 0xFF#8).wellFormed = true ∧ Instr.display.wellFormed = true ∧
    (Instr.translate 0xFF#8).wellFormed = true := by decide
theorem witness_EncodeOfDecode : decode (.command 0x1CFF#16) = .ok (.print 3#2 0xFF#8) ∧
    decode (.command 0x2000#16) = .ok .display ∧ decode (.lookup 0#8) = .ok (.translate 0#8) := by decide
/-- Each side of each clause is met by some word; 0x0FFF and 0x3000 stand on either side of the legal opcodes. -/
theorem witness_OpcodeMap : printRow.matchesWord 0x1CFF#16 = true ∧ displayRow.matchesWord 0x2000#16 = true ∧
    (opField 0x0FFF#16 ≠ 1#4 ∧ opField 0x0FFF#16 ≠ 2#4) ∧ (opField 0x3000#16 ≠ 1#4 ∧ opField 0x3000#16 ≠ 2#4) := by
  decide
/-- One word for each of (a), (b), (c) of R79, at the edges of the legal words, and a state that accepts it. -/
theorem witness_IllegalWordsRefused : decodeCommand 0x0FFF#16 = .error .reservedOpcode ∧
    decodeCommand 0x3000#16 = .error .reservedOpcode ∧ decodeCommand 0x1100#16 = .error .reservedField ∧
    decodeCommand 0x2001#16 = .error .displayOperand ∧ decodeCommand 0x2400#16 = .error .displayOperand ∧
    ∃ (s : State) (p : Ports), s.inputs = [.clock p] ∧ p.rst = false ∧ p.cmdValid = true ∧ s.resetDone = true ∧
      s.seq = .idle ∧ decodeCommand p.cmd = .error .displayOperand :=
  ⟨by decide, by decide, by decide, by decide, by decide,
    idleWith (.clock { displayPorts with cmd := 0x2001#16 }), { displayPorts with cmd := 0x2001#16 },
    by decide, rfl, rfl, rfl, rfl, by decide⟩
theorem witness_TranslateOutsideRange : ((0x1F#8).toNat < 0x20 ∨ 0x7E < (0x1F#8).toNat) ∧
    ((0x7F#8).toNat < 0x20 ∨ 0x7E < (0x7F#8).toNat) := by decide
/-- Both ends of the range, with a table that has a glyph at one and the sentinel at the other; and a glyph of the
block's own table. -/
theorem witness_TranslateInsideRange : ∃ rom : Fin 95 → Byte,
    (0x20 ≤ (0x20#8).toNat ∧ (0x20#8).toNat ≤ 0x7E ∧ (0 : Fin 95).val = (0x20#8).toNat - 0x20 ∧ rom 0 ≠ 0xFF#8) ∧
    (0x20 ≤ (0x7E#8).toNat ∧ (0x7E#8).toNat ≤ 0x7E ∧ (94 : Fin 95).val = (0x7E#8).toNat - 0x20 ∧ rom 94 = 0xFF#8) ∧
    charTable 21 ≠ 0xFF#8 :=
  ⟨fun i => if i = 94 then 0xFF#8 else 0x01#8, by decide⟩
theorem witness_TranslateCompletes : (idleWith (.lookup 0x7E#8)).inputs = [.lookup 0x7E#8] := by decide
theorem witness_LookupDependsOnCodePointAlone : ∃ t₁ t₂, exec (.translate 0x35#8) idleBlock = .next t₁ ∧
    exec (.translate 0x35#8) (busyBlock 0 3 0) = .next t₂ := ⟨_, _, rfl, rfl⟩
theorem witness_PrintResult : idleBlock.seq = .idle := rfl
theorem witness_PrintFrame : ∃ t, exec (.print 3#2 0x7F#8) idleBlock = .next t := ⟨_, rfl⟩
/-- The three clauses: an accepted PRINT with no glyph, a quiet edge, and a lookup. -/
theorem witness_NoGlyphRaisedExactly :
    (∃ t, (idleWith (.clock printPorts)).inputs = [.clock printPorts] ∧ step (idleWith (.clock printPorts)) = .next t) ∧
    (∃ t, idleBlock.inputs = [] ∧ step idleBlock = .next t) ∧
    (∃ t, (idleWith (.lookup 0#8)).lookupNext = true ∧ step (idleWith (.lookup 0#8)) = .next t) ∧
    (printPorts.rst = false ∧ printPorts.cmdValid = true ∧
      decodeCommand printPorts.cmd = .ok (.print 0#2 0x7F#8) ∧ (translateCp 0x7F#8).noglyph = true) :=
  ⟨⟨_, rfl, rfl⟩, ⟨_, rfl, rfl⟩, ⟨_, rfl, rfl⟩, by decide⟩
theorem witness_CommandsTurnedAwayWhileBusy : (busyBlock 3 58 0).seq = .busy 3 58 0 := rfl
theorem witness_DisplayAccepted : idleBlock.seq = .idle := rfl
theorem witness_DisplayFrame : ∃ t, exec .display idleBlock = .next t := ⟨_, rfl⟩
theorem witness_SequencerAgreesWithTransaction : State.reset.resetDone = true ∧ 1 ≤ State.reset.stepCycles ∧
    State.reset.seq = .busy 0 0 0 ∧ State.reset.fr = frameWord 0 State.reset.buf.slot0 ∧
    runningEdges (236 * State.reset.stepCycles) State.reset ∧ 235 < 236 * State.reset.stepCycles :=
  ⟨rfl, by decide, rfl, by decide, by simp [runningEdges, State.reset], by decide⟩
theorem witness_DisplayAppendsFourFrames : (idleWith (.clock displayPorts)).resetDone = true ∧
    1 ≤ (idleWith (.clock displayPorts)).stepCycles ∧ (idleWith (.clock displayPorts)).seq = .idle ∧
    (idleWith (.clock displayPorts)).inputs = [.clock displayPorts] ∧ displayPorts.cmdValid = true ∧
    decodeCommand displayPorts.cmd = .ok .display ∧
    runningEdges (1 + 236 * (idleWith (.clock displayPorts)).stepCycles) (idleWith (.clock displayPorts)) :=
  ⟨rfl, by decide, rfl, rfl, rfl, by decide, by
    simp [runningEdges, idleWith, idleBlock, State.reset, HostEvent.isRunningEdge, displayPorts]⟩
/-- At the first and the last number of edges, with STEP_CYCLES = 2 and a command presented meanwhile. -/
theorem witness_PassWritesOnTime : ∃ s : State, s.resetDone = true ∧ 1 ≤ s.stepCycles ∧ s.seq = .busy 0 0 0 ∧
    s.fr = frameWord 0 s.buf.slot0 ∧ runningEdges 0 s ∧ runningEdges (236 * s.stepCycles) s :=
  ⟨{ busyBlock 0 0 0 with stepCycles := 2, inputs := [.clock printPorts] }, rfl, by decide, rfl, by decide,
    by simp [runningEdges], by simp [runningEdges, HostEvent.isRunningEdge, printPorts]⟩
/-- At the last cycle of the last micro-step of the last frame, and at the start of a pass. -/
theorem witness_PassAlwaysCompletes : (busyBlock 3 58 0).resetDone = true ∧ (busyBlock 3 58 0).seqInRange ∧
    runningEdges (edgesLeft 3 58 0 1) (busyBlock 3 58 0) ∧ 0 < edgesLeft 3 58 0 1 ∧
    (busyBlock 0 0 0).seqInRange ∧ edgesLeft 0 0 0 1 = 236 :=
  ⟨rfl, ⟨by decide, by intro j t h e; cases e; decide⟩, by simp [runningEdges, busyBlock, State.reset], by decide,
    ⟨by decide, by intro j t h e; cases e; decide⟩, by decide⟩
theorem witness_DigitCountHasNoEffect : (∃ t, step (busyBlock 0 0 0) = .next t) ∧
    step { idleBlock with resetDone := false } = .refused .stepBeforeReset := ⟨⟨_, rfl⟩, rfl⟩
/-- The first and last bit of each phase. -/
theorem witness_FrameWordValue : 0 < 18 ∧ 17 < 18 := by decide
theorem witness_FramePhases : (0 < 4 ∧ 3 < 4) ∧ (4 ≤ 4 ∧ 4 < 10 ∧ 4 ≤ 9 ∧ 9 < 10) ∧
    (10 ≤ 10 ∧ 10 < 18 ∧ 10 ≤ 17 ∧ 17 < 18) := by decide
/-- A micro-step for each clause, the first and last of each kind. -/
theorem witness_MicroStepTable : (0 : Fin 59).val = 3 * 0 ∧ (51 : Fin 59).val = 3 * 17 ∧
    (1 : Fin 59).val = 3 * 0 + 1 ∧ (52 : Fin 59).val = 3 * 17 + 1 ∧ (2 : Fin 59).val = 3 * 0 + 2 ∧
    (53 : Fin 59).val = 3 * 17 + 2 ∧ (54 : Fin 59).val = 54 ∧ (55 : Fin 59).val = 55 ∧ (56 : Fin 59).val = 56 ∧
    (57 : Fin 59).val = 57 ∧ (58 : Fin 59).val = 58 := by decide
theorem witness_LineFacts : State.reset.clk = false := rfl
theorem witness_StepRunsDecodedInstruction :
    ((idleWith (.clock printPorts)).inputs = [.clock printPorts] ∧ printPorts.rst = false ∧
      printPorts.cmdValid = true ∧ (idleWith (.clock printPorts)).resetDone = true ∧
      (idleWith (.clock printPorts)).seq = .idle ∧ decode (.command printPorts.cmd) = .ok (.print 0#2 0x7F#8)) ∧
    ((idleWith (.lookup 0xFF#8)).inputs = [.lookup 0xFF#8] ∧ decode (.lookup 0xFF#8) = .ok (.translate 0xFF#8)) := by
  decide
/-- One state for each of the four cases: hold, next micro-step, next frame, idle. -/
theorem witness_BusyEdgeFollowsSequencer :
    (0 < ({ busyBlock 0 0 0 with stepCycles := 2 } : State).stepCycles - 1) ∧
    ((busyBlock 0 57 0).stepCycles - 1 ≤ 0 ∧ (58 : Fin 59).val = (57 : Fin 59).val + 1) ∧
    ((busyBlock 2 58 0).stepCycles - 1 ≤ 0 ∧ (3 : Fin 4).val = (2 : Fin 4).val + 1) ∧
    ((busyBlock 3 58 0).stepCycles - 1 ≤ 0 ∧ (3 : Fin 4).val = 3) ∧
    (busyBlock 3 58 0).resetDone = true ∧ runningEdges 1 (busyBlock 3 58 0) :=
  ⟨by decide, by decide, by decide, by decide, rfl, by simp [runningEdges, busyBlock, State.reset]⟩
theorem witness_IdleEdgeHolds : idleBlock.resetDone = true ∧ idleBlock.seq = .idle ∧ idleBlock.lookupNext = false ∧
    idleBlock.resetNext = false ∧ (nextPorts idleBlock.inputs).cmdValid = false := by decide
/-- An accepting state, and one that is not because it is busy, resetting, or presented nothing. -/
theorem witness_CommandAcceptedExactly : (idleWith (.clock printPorts)).resetDone = true ∧
    (idleWith (.clock printPorts)).acceptsCommand = true ∧
    ({ busyBlock 3 58 0 with inputs := [.clock printPorts] } : State).acceptsCommand = false ∧
    (idleWith (.clock rstPorts)).acceptsCommand = false ∧
    (idleWith (.clock quietPorts)).acceptsCommand = false := by decide
theorem witness_PrintThenDisplay : ∃ s : State, s.resetDone = true ∧ s.seq = .idle ∧
    s.inputs = [.clock printPorts, .clock displayPorts] ∧ printPorts.rst = false ∧ printPorts.cmdValid = true ∧
    displayPorts.rst = false ∧ displayPorts.cmdValid = true ∧
    decodeCommand printPorts.cmd = .ok (.print 0#2 0x7F#8) ∧ decodeCommand displayPorts.cmd = .ok .display :=
  ⟨{ idleBlock with inputs := [.clock printPorts, .clock displayPorts] }, by decide⟩
theorem witness_BufferWriters :
    (∃ t, step (idleWith (.clock printPorts)) = .next t ∧ t.buf ≠ (idleWith (.clock printPorts)).buf) ∧
    (∃ s t, s.resetNext = true ∧ step s = .next t ∧ t.buf ≠ s.buf) :=
  ⟨⟨_, rfl, by decide⟩,
    { idleWith (.clock rstPorts) with buf := ⟨0xFF#8, 0xFE#8, 0xFE#8, 0xFE#8⟩ }, _, rfl, rfl, by decide⟩
theorem witness_LineWriters : (∃ t, step (busyBlock 0 2 0) = .next t ∧ t.clk ≠ (busyBlock 0 2 0).clk) ∧
    (∃ t, step (idleWith (.clock rstPorts)) = .next t ∧ t.dat ≠ (idleWith (.clock rstPorts)).dat) :=
  ⟨⟨_, rfl, by decide⟩, _, rfl, by decide⟩
theorem witness_TraceOnlyGrows : ∃ t, step (busyBlock 0 2 0) = .next t ∧ (busyBlock 0 2 0).resetNext = false :=
  ⟨_, rfl, rfl⟩
theorem witness_StepHasNextState : (idleWith (.lookup 0#8)).lookupNext = true ∧
    (idleWith (.clock rstPorts)).resetNext = true ∧ idleBlock.resetDone = true ∧ idleBlock.acceptsCommand = false ∧
    (({ idleBlock with resetDone := false } : State).lookupNext = false ∧
      ({ idleBlock with resetDone := false } : State).resetNext = false) := by decide
theorem witness_ResetEdgeSetsRegisters : (idleWith (.clock rstPorts)).inputs = [.clock rstPorts] ∧
    rstPorts.rst = true := by decide
theorem witness_HoldingResetChangesNothing : ∃ s t : State, s.inputs = [.clock rstPorts, .clock rstPorts] ∧
    rstPorts.rst = true ∧ step s = .next t :=
  ⟨{ idleBlock with inputs := [.clock rstPorts, .clock rstPorts] }, _, rfl, rfl, rfl⟩
theorem witness_InitialDisplayPass : ∃ s : State, s.inputs = [.clock rstPorts, .clock printPorts] ∧
    rstPorts.rst = true ∧ 1 ≤ s.stepCycles ∧
    (∀ e ∈ [HostEvent.clock printPorts].take (236 * s.stepCycles), e.isRunningEdge = true) ∧
    0 < 236 * s.stepCycles :=
  ⟨{ idleBlock with inputs := [.clock rstPorts, .clock printPorts], resetDone := false }, rfl, rfl, by decide,
    by decide, by decide⟩
theorem witness_StepKeepsLinesMatchTrace : ∃ t, State.reset.linesMatchTrace ∧ step State.reset = .next t :=
  ⟨_, ⟨rfl, rfl⟩, rfl⟩
theorem witness_StepKeepsSequencer : ∃ t, (State.reset.seqInRange ∧ State.reset.frHoldsFrame) ∧
    step State.reset = .next t :=
  ⟨_, ⟨⟨by decide, by intro j t h e; cases e; decide⟩, by intro j t h e; cases e; decide⟩, rfl⟩
theorem witness_StepKeepsTraceOfPasses : ∃ t, State.reset.seqInRange ∧ State.reset.frHoldsFrame ∧
    State.reset.traceIsPasses ∧ step State.reset = .next t :=
  ⟨_, ⟨by decide, by intro j t h e; cases e; decide⟩, by intro j t h e; cases e; decide, ⟨[], rfl⟩, rfl⟩
theorem witness_StepKeepsBufferInRange : ∃ t, State.reset.bufferInRange ∧ step State.reset = .next t :=
  ⟨_, ⟨rfl, rfl, rfl, .inl rfl⟩, rfl⟩
theorem witness_PrintLineWord : (3 < 4 ∧ 255 < 256) ∧ (0 < 4 ∧ 0 < 256) := by decide
theorem witness_HeldCommandRunsAfterPass : (busyBlock 3 58 0).resetDone = true ∧ (busyBlock 3 58 0).seqInRange ∧
    (busyBlock 3 58 0).seq = .busy 3 58 0 ∧ (busyBlock 3 58 0).inputs = [] ∧
    decodeCommand 0x2000#16 = .ok .display :=
  ⟨rfl, ⟨by decide, by intro j t h e; cases e; decide⟩, rfl, rfl, by decide⟩

end Sys2Proof.Tests
end

section
/-! PinWrite (R10) as one equation per line: the whole state after it. -/

namespace Sys2Proof.Machine

/-- R27: a PinWrite on the clock line. Record equality carries the frame: no other field differs. -/
theorem pinWrite_clk_eq (l : Level) (s : State) :
    pinWrite ⟨.clk, l⟩ s = { s with clk := l, trace := s.trace ++ [⟨.clk, l⟩] } := rfl

/-- R27: a PinWrite on the data line. -/
theorem pinWrite_dat_eq (l : Level) (s : State) :
    pinWrite ⟨.dat, l⟩ s = { s with dat := l, trace := s.trace ++ [⟨.dat, l⟩] } := rfl

/-- Settles O28: the equations of the two lines. -/
theorem pinWriteEffect : Obligations.PinWriteEffect :=
  fun l s => ⟨pinWrite_clk_eq l s, pinWrite_dat_eq l s⟩

end Sys2Proof.Machine
end

section
/-! The step's inversion with named cases, the writers of BUF, the lines and TRACE (R21, R27, R28), and BUSY (R31). -/

namespace Sys2Proof.Machine

/-- The state once the host's next event is taken from the inputs. -/
abbrev State.takeEvent (s : State) : State := { s with inputs := s.inputs.tail }

/-- The six things one host event can do to a block (R107, R160), each with what must hold for it. -/
inductive StepEffect (s : State) : State → Prop
  | lookup (cp : Byte) : StepEffect s { s.takeEvent with romCp := cp }
  | reset (hrst : s.resetNext = true) : StepEffect s (resetEdge s.takeEvent)
  | quiet (hseq : s.seq = .idle) : StepEffect s (newCycle s.takeEvent)
  | print (pos : BitVec 2) (cp : Byte) (hrst : s.resetNext = false) (hacc : s.acceptsCommand = true)
      (hseq : s.seq = .idle) (hcmd : decodeCommand (nextPorts s.inputs).cmd = .ok (.print pos cp)) :
      StepEffect s (printEffect cp (newCycle s.takeEvent))
  | display (hseq : s.seq = .idle) : StepEffect s (loadFrame 0 (newCycle s.takeEvent))
  | microStep (j : Fin 4) (k : Fin 59) (n : Nat) (hseq : s.seq = .busy j k n) :
      StepEffect s (busyEdge j k n s.takeEvent)

/-- R76: an idle block accepts a command presented without RST. -/
theorem acceptsCommand_of_idle {s : State} (hseq : s.seq = .idle) (hrst : (nextPorts s.inputs).rst = false)
    (hvalid : (nextPorts s.inputs).cmdValid = true) : s.acceptsCommand = true := by
  simp [State.acceptsCommand, State.cmdReady, State.busyOut, Seq.isBusy, hseq, hrst, hvalid]

/-- A step with a next state has one of the six effects. -/
theorem stepEffect_of_step {s t : State} (h : step s = .next t) : StepEffect s t := by
  obtain ⟨cp, rest, hin, rfl⟩ | ⟨hlook, hedge⟩ := step_cases h
  · have htail : rest = s.inputs.tail := by rw [hin]; rfl
    exact htail ▸ .lookup cp
  · have hnext := nextPorts_rst hlook
    obtain ⟨hrst, rfl⟩ | ⟨hrst, -, hcases⟩ := clockEdge_cases hedge
    · exact .reset (hnext.symm.trans hrst)
    · obtain ⟨hseq, -, rfl⟩ | ⟨hseq, hvalid, hcmd, rfl⟩ | ⟨hseq, -, -, rfl⟩ | ⟨j, k, n, hseq, rfl⟩ := hcases
      · exact .quiet hseq
      · exact .print _ _ (hnext.symm.trans hrst) (acceptsCommand_of_idle hseq hrst hvalid) hseq hcmd
      · exact .display hseq
      · exact .microStep j k n hseq

/-- Settles O38: of the six effects only reset and PRINT touch BUF. -/
theorem bufferWriters : Obligations.BufferWriters := by
  intro s t h hne
  cases stepEffect_of_step h with
  | reset hrst => exact .inl ⟨hrst, rfl⟩
  | print pos cp hrst hacc _ hcmd => exact .inr ⟨hrst, hacc, pos, cp, hcmd, by simp⟩
  | lookup | quiet | display | microStep => simp at hne

/-- Settles O39: a micro-step that is only held (`n ≠ 0`) writes nothing, so the one that writes is at its first cycle. -/
theorem lineWriters : Obligations.LineWriters := by
  intro s t h hne
  cases stepEffect_of_step h with
  | reset hrst => exact .inl hrst
  | microStep j k n hseq =>
    by_cases hn : n = 0
    · subst hn
      exact .inr ⟨j, k, hseq, by simp [busyEdge_trace]⟩
    · simp [busyEdge_clk, busyEdge_dat, busyEdge_trace, hn] at hne
  | lookup | quiet | print | display => simp at hne

/-- Settles O40: a step that changes TRACE and is no reset edge is the micro-step of `lineWriters`. -/
theorem traceOnlyGrows : Obligations.TraceOnlyGrows := by
  intro s t h hrst
  by_cases htr : t.trace = s.trace
  · exact .inl htr
  · obtain hreset | ⟨j, k, -, happend⟩ := lineWriters s t h (.inr (.inr htr))
    · simp [hrst] at hreset
    · exact .inr ⟨_, happend⟩

theorem Seq.isBusy_iff (q : Seq) : q.isBusy = true ↔ q ≠ .idle := by
  cases q <;> simp [Seq.isBusy]

/-- Settles O36. -/
theorem busyOutput : Obligations.BusyOutput := fun s =>
  ⟨by simp [State.busyOut, Seq.isBusy_iff], by simp [State.cmdReady]⟩

end Sys2Proof.Machine
end

section
/-! The invariants of the registers (R22, R28, R29, R30): what reset gives them, and that every step keeps them. -/

namespace Sys2Proof.Machine

/-! ## After the registers are reset -/

theorem resetRegisters_linesMatchTrace (s : State) : (resetRegisters s).linesMatchTrace := ⟨rfl, rfl⟩

theorem resetRegisters_bufferInRange (s : State) : (resetRegisters s).bufferInRange := ⟨rfl, rfl, rfl, .inl rfl⟩

theorem resetRegisters_traceIsPasses (s : State) : (resetRegisters s).traceIsPasses := ⟨[], rfl⟩

/-- R37: `State.reset` already holds what reset writes. -/
theorem resetRegisters_reset : resetRegisters State.reset = State.reset := by decide

/-! ## The sequencer's invariants, by the case of `seq` -/

theorem State.seqInRange_of_idle {s : State} (hseq : s.seq = .idle) (hS : 1 ≤ s.stepCycles) : s.seqInRange :=
  ⟨hS, by simp [hseq]⟩

theorem State.seqInRange_of_busy {s : State} {j k n} (hseq : s.seq = .busy j k n) (hn : n < s.stepCycles) :
    s.seqInRange :=
  ⟨by omega, by rw [hseq]; rintro _ _ _ ⟨⟩; exact hn⟩

theorem State.frHoldsFrame_of_idle {s : State} (hseq : s.seq = .idle) : s.frHoldsFrame := by
  simp [State.frHoldsFrame, hseq]

theorem State.frHoldsFrame_of_busy {s : State} {j k n} (hseq : s.seq = .busy j k n)
    (hfr : s.fr = frameWord j (s.buf.get j)) : s.frHoldsFrame := by
  rw [State.frHoldsFrame, hseq]; rintro _ _ _ ⟨⟩; exact hfr

/-- R160: a frame that begins has its bits in FR and no cycle spent yet. -/
theorem loadFrame_keeps_sequencer (j : Fin 4) {s : State} (hS : 1 ≤ s.stepCycles) :
    (loadFrame j s).seqInRange ∧ (loadFrame j s).frHoldsFrame :=
  ⟨State.seqInRange_of_busy (loadFrame_seq s j) hS, State.frHoldsFrame_of_busy (loadFrame_seq s j) rfl⟩

/-- R200, R201: so does the frame of slot 0 that a reset begins. -/
theorem resetRegisters_sequencer {s : State} (hS : 1 ≤ s.stepCycles) :
    (resetRegisters s).seqInRange ∧ (resetRegisters s).frHoldsFrame :=
  ⟨State.seqInRange_of_busy (resetRegisters_seq s) hS, State.frHoldsFrame_of_busy (resetRegisters_seq s) rfl⟩

/-- An edge of a pass keeps the sequencer in each of the four ways it can advance. -/
theorem busyEdge_keeps_sequencer {s : State} {j : Fin 4} {k : Fin 59} {n : Nat} (hS : 1 ≤ s.stepCycles)
    (hfr : s.fr = frameWord j (s.buf.get j)) :
    (busyEdge j k n s).seqInRange ∧ (busyEdge j k n s).frHoldsFrame := by
  have hcycles := busyEdge_stepCycles j k n s
  have hbuf := busyEdge_buf j k n s
  obtain ⟨hn, hseq, hfr'⟩ | ⟨-, _, hseq, hfr'⟩ | ⟨-, -, _, hseq, hfr'⟩ | ⟨-, -, -, hseq⟩ := busyEdge_cases j k n s
  · exact ⟨State.seqInRange_of_busy hseq (by omega), State.frHoldsFrame_of_busy hseq (by rw [hfr', hfr, hbuf])⟩
  · exact ⟨State.seqInRange_of_busy hseq (by omega), State.frHoldsFrame_of_busy hseq (by rw [hfr', hfr, hbuf])⟩
  · exact ⟨State.seqInRange_of_busy hseq (by omega), State.frHoldsFrame_of_busy hseq (by rw [hfr', hbuf])⟩
  · exact ⟨State.seqInRange_of_idle hseq (by omega), State.frHoldsFrame_of_idle hseq⟩

/-- Settles O47: the sequencer moves only at reset, at an accepted DISPLAY and in a pass. -/
theorem stepKeepsSequencer : Obligations.StepKeepsSequencer := by
  rintro s t ⟨hrange, hframe⟩ h
  have hS : 1 ≤ s.stepCycles := hrange.1
  cases stepEffect_of_step h with
  | lookup => exact ⟨hrange, hframe⟩
  | reset => exact resetRegisters_sequencer hS
  | quiet => exact ⟨hrange, hframe⟩
  | print _ _ _ _ hseq =>
    exact ⟨State.seqInRange_of_idle (by simpa using hseq) (by simpa using hS),
      State.frHoldsFrame_of_idle (by simpa using hseq)⟩
  | display => exact loadFrame_keeps_sequencer 0 hS
  | microStep j k n hseq => exact busyEdge_keeps_sequencer hS (hframe j k n hseq)

/-! ## The lines -/

/-- R28: the last level of a line after one more event. -/
theorem lastLevel_append_singleton (p : Pin) (tr : List PinEvent) (e : PinEvent) :
    lastLevel p (tr ++ [e]) = if e.pin = p then e.level else lastLevel p tr := by
  simp [lastLevel]

/-- R10, R28: a PinWrite sets the line its event names to the level its event records. -/
theorem pinWrite_keeps_linesMatchTrace (e : PinEvent) {s : State} (h : s.linesMatchTrace) :
    (pinWrite e s).linesMatchTrace := by
  obtain ⟨hclk, hdat⟩ := h
  constructor
  · rw [pinWrite_clk, pinWrite_trace, lastLevel_append_singleton, hclk]
  · rw [pinWrite_dat, pinWrite_trace, lastLevel_append_singleton, hdat]

/-- An edge of a pass makes one PinWrite, or holds the lines. -/
theorem busyEdge_keeps_linesMatchTrace (j : Fin 4) (k : Fin 59) (n : Nat) {s : State} (h : s.linesMatchTrace) :
    (busyEdge j k n s).linesMatchTrace := by
  have hwrite := pinWrite_keeps_linesMatchTrace (microWrite k s.fr) h
  rw [State.linesMatchTrace, busyEdge_clk, busyEdge_dat, busyEdge_trace]
  split_ifs with hn
  · simpa [State.linesMatchTrace, microStep] using hwrite
  · exact h

/-- Settles O46: the lines and TRACE are written together, by reset and by the micro-steps. -/
theorem stepKeepsLinesMatchTrace : Obligations.StepKeepsLinesMatchTrace := by
  intro s t hinv h
  cases stepEffect_of_step h with
  | reset => exact resetRegisters_linesMatchTrace _
  | microStep j k n => exact busyEdge_keeps_linesMatchTrace j k n hinv
  | lookup | quiet | print | display => simpa [State.linesMatchTrace] using hinv

/-! ## The buffer -/

/-- Settles O49: by `bufferWriters` a changed BUF is the reset value, or has a lookup's pattern in slot 0. -/
theorem stepKeepsBufferInRange : Obligations.StepKeepsBufferInRange := by
  intro s t hinv h
  by_cases hbuf : t.buf = s.buf
  · simpa only [State.bufferInRange, hbuf] using hinv
  · obtain ⟨-, hbuf⟩ | ⟨-, -, -, cp, -, hbuf⟩ := bufferWriters s t h hbuf
    · simp [State.bufferInRange, hbuf]
    · obtain ⟨h1, h2, h3, -⟩ := hinv
      simpa only [State.bufferInRange, hbuf] using ⟨h1, h2, h3, .inr ⟨cp, rfl⟩⟩

/-! ## State.reset -/

/-- Settles O42. -/
theorem resetValues : Obligations.ResetValues :=
  ⟨rfl, rfl, rfl, rfl, rfl, rfl, by decide, rfl, rfl⟩

/-- Settles O50: `State.reset` is a state whose registers were just reset. -/
theorem resetMeetsInvariants : Obligations.ResetMeetsInvariants := by
  unfold Obligations.ResetMeetsInvariants
  rw [← resetRegisters_reset]
  obtain ⟨hrange, hframe⟩ := resetRegisters_sequencer (s := State.reset) le_rfl
  exact ⟨resetRegisters_linesMatchTrace _, hrange, hframe, resetRegisters_traceIsPasses _,
    resetRegisters_bufferInRange _⟩

end Sys2Proof.Machine
end

section
/-! The known entries of CHAR_TABLE (R24) and the lookups they decide (R103). -/

namespace Sys2Proof.Machine

/-- Settles O9. -/
theorem knownTableEntries : Obligations.KnownTableEntries := ⟨rfl, rfl, rfl, rfl, rfl⟩

/-- R102, R103: a code point in the range is decided by its entry of the ROM. -/
theorem translateCp_of_index {cp : Byte} (i : Fin 95) (h : cp.toNat = 0x20 + i.val) :
    translateCp cp = if charTable i = sentinel then { pat := sentinel, noglyph := true }
      else { pat := charTable i, noglyph := false } := by
  have hrange : 0x20 ≤ cp.toNat ∧ cp.toNat ≤ 0x7E := by omega
  have hi : (⟨cp.toNat - 0x20, by omega⟩ : Fin 95) = i := Fin.ext (by simp [h])
  simp only [translateCp, translateWith, hrange, and_self, dite_true, hi]

/-- Settles O10: the lookups at the entries of `knownTableEntries`. -/
theorem knownGlyphs : Obligations.KnownGlyphs := by
  obtain ⟨h5, h8, hS, hg, ht⟩ := knownTableEntries
  refine ⟨?_, ?_, ?_, ?_, ?_⟩
  · rw [translateCp_of_index 21 rfl, h5]; rfl
  · rw [translateCp_of_index 24 rfl, h8]; rfl
  · rw [translateCp_of_index 51 rfl, hS, h5]; rfl
  · rw [translateCp_of_index 71 rfl, translateCp_of_index 25 rfl, hg]
  · rw [translateCp_of_index 84 rfl, translateCp_of_index 52 rfl, ht]

end Sys2Proof.Machine
end

section
/-! TRACE as a row of display passes (R58, R124, R153, R157): the writes of a pass by position, and that every step keeps
the row. -/

namespace Sys2Proof.Machine

/-! ## The writes of a pass, by position -/

/-- R153, R157: the writes of SEND_FRAME are the 59 micro-steps of its frame word, in order. -/
theorem frame_eq_microWrites (j : Fin 4) (b : Byte) :
    frame j b = (List.finRange 59).map (microWrite · (frameWord j b)) := rfl

theorem frame_getElem? (j : Fin 4) (b : Byte) (k : Fin 59) :
    (frame j b)[k.val]? = some (microWrite k (frameWord j b)) := by
  simp [frame_eq_microWrites]

/-- R125: in a pass the frame of slot `j` has `59 * j` writes before it. -/
theorem passTrace_split (b : Buffer) (j : Fin 4) :
    ∃ before after, passTrace b = before ++ (frame j (b.get j) ++ after) ∧ before.length = 59 * j.val := by
  match j with
  | 0 => exact ⟨[], frame 1 b.slot1 ++ frame 2 b.slot2 ++ frame 3 b.slot3, by simp [passTrace], rfl⟩
  | 1 => exact ⟨frame 0 b.slot0, frame 2 b.slot2 ++ frame 3 b.slot3, by simp [passTrace], by simp⟩
  | 2 => exact ⟨frame 0 b.slot0 ++ frame 1 b.slot1, frame 3 b.slot3, by simp [passTrace], by simp⟩
  | 3 => exact ⟨frame 0 b.slot0 ++ frame 1 b.slot1 ++ frame 2 b.slot2, [], by simp [passTrace], by simp⟩

theorem passTrace_getElem? (b : Buffer) (j : Fin 4) (k : Fin 59) :
    (passTrace b)[59 * j.val + k.val]? = some (microWrite k (frameWord j (b.get j))) := by
  obtain ⟨before, after, hsplit, hlen⟩ := passTrace_split b j
  rw [hsplit, ← hlen, List.getElem?_append_right (by omega), Nat.add_sub_cancel_left,
    List.getElem?_append_left (by simp), frame_getElem?]

/-- Micro-step `k` of slot `j` is the write that prolongs the part made of a pass. -/
theorem passTrace_take_succ (b : Buffer) (j : Fin 4) (k : Fin 59) :
    (passTrace b).take (59 * j.val + k.val + 1) =
      (passTrace b).take (59 * j.val + k.val) ++ [microWrite k (frameWord j (b.get j))] := by
  rw [List.take_add_one, passTrace_getElem?]; rfl

/-! ## The row of passes, by the case of `seq` -/

theorem State.traceIsPasses_iff_of_idle {s : State} (hseq : s.seq = .idle) :
    s.traceIsPasses ↔ ∃ done : List Buffer, s.trace = done.flatMap passTrace := by
  simp only [State.traceIsPasses, hseq]

theorem State.traceIsPasses_iff_of_busy {s : State} {j k n} (hseq : s.seq = .busy j k n) :
    s.traceIsPasses ↔
      ∃ done : List Buffer, s.trace = done.flatMap passTrace ++ (passTrace s.buf).take (writesMade j k n) := by
  simp only [State.traceIsPasses, hseq]

/-- R124: a pass that begins has made no write yet. -/
theorem loadFrame_zero_traceIsPasses {s : State} {done : List Buffer} (htrace : s.trace = done.flatMap passTrace) :
    (loadFrame 0 s).traceIsPasses :=
  (State.traceIsPasses_iff_of_busy (loadFrame_seq s 0)).mpr ⟨done, by simp [writesMade, htrace]⟩

/-! ## An edge of a pass -/

/-- R160: after an edge of a pass the write of its micro-step is made, by this edge or by an earlier one. -/
theorem busyEdge_trace_take {s : State} {j : Fin 4} {k : Fin 59} {n : Nat} {earlier : List PinEvent}
    (hfr : s.fr = frameWord j (s.buf.get j))
    (htrace : s.trace = earlier ++ (passTrace s.buf).take (writesMade j k n)) :
    (busyEdge j k n s).trace = earlier ++ (passTrace s.buf).take (59 * j.val + k.val + 1) := by
  rw [busyEdge_trace, htrace]
  by_cases hn : n = 0
  · simp [hn, writesMade, hfr, passTrace_take_succ]
  · simp [hn, writesMade]

/-- In each of the four ways the sequencer can advance, the count of the new `seq` is that of the writes made; a pass
that ends is a whole one. -/
theorem busyEdge_keeps_traceIsPasses {s : State} {j : Fin 4} {k : Fin 59} {n : Nat} (hseq : s.seq = .busy j k n)
    (hfr : s.fr = frameWord j (s.buf.get j)) (hinv : s.traceIsPasses) : (busyEdge j k n s).traceIsPasses := by
  obtain ⟨done, htrace⟩ := (State.traceIsPasses_iff_of_busy hseq).mp hinv
  have hnew := busyEdge_trace_take hfr htrace
  have hbusy {j' k' n'} (hseq' : (busyEdge j k n s).seq = .busy j' k' n')
      (hcount : writesMade j' k' n' = 59 * j.val + k.val + 1) : (busyEdge j k n s).traceIsPasses :=
    (State.traceIsPasses_iff_of_busy hseq').mpr ⟨done, by rw [hnew, busyEdge_buf, hcount]⟩
  obtain ⟨-, hseq', -⟩ | ⟨-, _, hseq', -⟩ | ⟨-, hk, _, hseq', -⟩ | ⟨-, hk, hj, hseq'⟩ := busyEdge_cases j k n s
  · exact hbusy hseq' (by simp [writesMade])
  · exact hbusy hseq' (by simp [writesMade, Nat.add_assoc])
  · exact hbusy hseq' (by simp [writesMade, hk, Nat.mul_add])
  · have hwhole : (passTrace s.buf).take (59 * j.val + k.val + 1) = passTrace s.buf :=
      List.take_of_length_le (by simp [hj, hk])
    exact (State.traceIsPasses_iff_of_idle hseq').mpr ⟨done ++ [s.buf], by simp [hnew, hwhole]⟩

/-- Settles O48: TRACE is written by reset, which empties it, and by the micro-steps; DISPLAY begins a pass after whole
ones. -/
theorem stepKeepsTraceOfPasses : Obligations.StepKeepsTraceOfPasses := by
  intro s t _ hframe hinv h
  cases stepEffect_of_step h with
  | lookup => exact hinv
  | reset => exact resetRegisters_traceIsPasses _
  | quiet => exact hinv
  | print _ cp _ _ hseq =>
    rw [State.traceIsPasses_iff_of_idle hseq] at hinv
    exact (State.traceIsPasses_iff_of_idle (by simpa using hseq)).mpr (by simpa using hinv)
  | display hseq =>
    obtain ⟨done, htrace⟩ := (State.traceIsPasses_iff_of_idle hseq).mp hinv
    exact loadFrame_zero_traceIsPasses (by simpa using htrace)
  | microStep j k n hseq => exact busyEdge_keeps_traceIsPasses (s := s.takeEvent) hseq (hframe j k n hseq) hinv

end Sys2Proof.Machine
end

section
/-! The fields of a command word (R77): they make up the word, the table's rows mask them one by one (R78), and the
decoder reads nothing else (R78, R79). -/

namespace Sys2Proof

open Machine (printWord displayWord)

/-! ## A word is its four fields -/

theorem CmdWord.ext_fields {v w : CmdWord} (hop : opField v = opField w) (ha : aField v = aField w)
    (hrsv : rsvField v = rsvField w) (hd : dField v = dField w) : v = w := by
  apply BitVec.eq_of_toNat_eq
  simp only [opField, aField, rsvField, dField, ← BitVec.toNat_inj, BitVec.extractLsb'_toNat] at hop ha hrsv hd
  omega

theorem CommandRow.matchesWord_iff_fields (r : CommandRow) (w : CmdWord) :
    r.matchesWord w = true ↔
      opField w &&& opField r.mask = opField r.pattern ∧ aField w &&& aField r.mask = aField r.pattern ∧
      rsvField w &&& rsvField r.mask = rsvField r.pattern ∧ dField w &&& dField r.mask = dField r.pattern := by
  simp only [r.matchesWord_iff, opField, aField, rsvField, dField, ← BitVec.extractLsb'_and]
  exact ⟨fun h => by simp [h], fun ⟨hop, ha, hrsv, hd⟩ => CmdWord.ext_fields hop ha hrsv hd⟩

/-- The mask 0xF300 keeps OP and RSV, and nothing of A and D. -/
theorem printRow_matchesWord_iff (w : CmdWord) :
    printRow.matchesWord w = true ↔ opField w = 1#4 ∧ rsvField w = 0#2 := by
  rw [CommandRow.matchesWord_iff_fields]
  change opField w &&& BitVec.allOnes 4 = 1#4 ∧ aField w &&& 0#2 = 0#2 ∧
    rsvField w &&& BitVec.allOnes 2 = 0#2 ∧ dField w &&& 0#8 = 0#8 ↔ _
  simp only [BitVec.and_allOnes, BitVec.and_zero, true_and, and_true]

/-- The mask 0xFFFF keeps every field. -/
theorem displayRow_matchesWord_iff (w : CmdWord) :
    displayRow.matchesWord w = true ↔ opField w = 2#4 ∧ aField w = 0#2 ∧ rsvField w = 0#2 ∧ dField w = 0#8 := by
  rw [CommandRow.matchesWord_iff_fields]
  change opField w &&& BitVec.allOnes 4 = 2#4 ∧ aField w &&& BitVec.allOnes 2 = 0#2 ∧
    rsvField w &&& BitVec.allOnes 2 = 0#2 ∧ dField w &&& BitVec.allOnes 8 = 0#8 ↔ _
  simp only [BitVec.and_allOnes]

/-! ## The decoder, by the fields -/

theorem decodeCommand_eq_print_iff {w : CmdWord} {pos : BitVec 2} {cp : Byte} :
    decodeCommand w = .ok (.print pos cp) ↔
      (opField w = 1#4 ∧ rsvField w = 0#2) ∧ pos = aField w ∧ cp = dField w := by
  unfold decodeCommand
  split_ifs with hop hrsv
  · simp [hop, hrsv, eq_comm]
  · simp [hrsv]
  all_goals simp [hop]

theorem decodeCommand_eq_display_iff {w : CmdWord} :
    decodeCommand w = .ok .display ↔ opField w = 2#4 ∧ aField w = 0#2 ∧ rsvField w = 0#2 ∧ dField w = 0#8 := by
  unfold decodeCommand
  split_ifs with hop _ hop hrsv hoperands
  · simp [hop]
  · simp [hop]
  · simpa [hop, hrsv] using hoperands
  · simpa [hop, hrsv] using hoperands
  · simp [hrsv]
  · simp [hop]

theorem decodeCommand_of_reservedOpcode {w : CmdWord} (h : opField w ≠ 1#4 ∧ opField w ≠ 2#4) :
    decodeCommand w = .error .reservedOpcode := by
  simp [decodeCommand, h]

/-- R79: a word is illegal exactly when it is no PRINT and no DISPLAY. -/
theorem decodeCommand_error_iff {w : CmdWord} :
    (∃ why, decodeCommand w = .error why) ↔
      ¬ (opField w = 1#4 ∧ rsvField w = 0#2) ∧
      ¬ (opField w = 2#4 ∧ aField w = 0#2 ∧ rsvField w = 0#2 ∧ dField w = 0#8) := by
  rw [← decodeCommand_eq_display_iff]
  cases hw : decodeCommand w with
  | error why =>
    refine iff_of_true ⟨why, rfl⟩ ⟨fun hprint => ?_, by simp⟩
    have hok := decodeCommand_eq_print_iff.mpr ⟨hprint, rfl, rfl⟩
    simp [hw] at hok
  | ok i =>
    refine iff_of_false (by simp) fun ⟨hprint, hdisplay⟩ => ?_
    obtain rfl | rfl := decodeCommand_cases hw
    · exact hprint (decodeCommand_eq_print_iff.mp hw).1
    · exact hdisplay rfl

/-- Settles O4: the masks of the rows keep the fields that the decoder tests. -/
theorem opcodeMap : Obligations.OpcodeMap := by
  intro w
  rw [printRow_matchesWord_iff, displayRow_matchesWord_iff]
  refine ⟨fun _ _ => decodeCommand_eq_print_iff, decodeCommand_eq_display_iff, ?_,
    decodeCommand_of_reservedOpcode, fun i h => ?_⟩
  · rintro ⟨⟨hprint, -⟩, hdisplay, -⟩
    simp [hprint] at hdisplay
  · exact (decodeCommand_cases h).imp_left fun hi => ⟨_, _, hi⟩

/-- Settles O1: fixed words, so the decoder is evaluated on them. -/
theorem specWordsDecode : Obligations.SpecWordsDecode := by
  unfold Obligations.SpecWordsDecode
  decide

/-! ## The word of a PRINT (R82) -/

theorem encode_print (pos : BitVec 2) (cp : Byte) :
    encode (.print pos cp) = .command (printWord pos.toNat cp.toNat) := by
  simp [encode, printWord]

/-- The family `TableRow`, for the word by its name. -/
theorem printRow_matchesWord_printWord (pos : BitVec 2) (cp : Byte) :
    printRow.matchesWord (printWord pos.toNat cp.toNat) = true := by
  obtain ⟨w, hw, hrow⟩ := Laws.TableRow.print pos cp
  rw [encode_print] at hw
  cases hw
  exact hrow

theorem aField_printWord (pos : BitVec 2) (cp : Byte) : aField (printWord pos.toNat cp.toNat) = pos := by
  apply BitVec.eq_of_getLsbD_eq
  intro i hi
  interval_cases i <;> simp [aField, printWord]

theorem dField_printWord (pos : BitVec 2) (cp : Byte) : dField (printWord pos.toNat cp.toNat) = cp := by
  apply BitVec.eq_of_getLsbD_eq
  intro i hi
  interval_cases i <;> simp [dField, printWord]

theorem decodeCommand_printWord (pos : BitVec 2) (cp : Byte) :
    decodeCommand (printWord pos.toNat cp.toNat) = .ok (.print pos cp) :=
  decodeCommand_eq_print_iff.mpr
    ⟨(printRow_matchesWord_iff _).mp (printRow_matchesWord_printWord pos cp),
      (aField_printWord pos cp).symm, (dField_printWord pos cp).symm⟩

/-! ## Decoding against encoding -/

/-- Settles O2, by the instruction: a PRINT's word has the fields that the decoder reads back. -/
theorem decodeOfEncode : Obligations.DecodeOfEncode := by
  intro i _
  cases i with
  | print pos cp => rw [encode_print]; exact decodeCommand_printWord pos cp
  | display => rfl
  | translate cp => rfl

/-- A word that decodes to a PRINT has each field equal to the assembled word's. -/
theorem printWord_eq_of_decodeCommand {w : CmdWord} {pos : BitVec 2} {cp : Byte}
    (h : decodeCommand w = .ok (.print pos cp)) : printWord pos.toNat cp.toNat = w := by
  obtain ⟨⟨hop, hrsv⟩, ha, hd⟩ := decodeCommand_eq_print_iff.mp h
  obtain ⟨⟨hop', hrsv'⟩, ha', hd'⟩ := decodeCommand_eq_print_iff.mp (decodeCommand_printWord pos cp)
  exact CmdWord.ext_fields (hop'.trans hop.symm) (ha'.symm.trans ha) (hrsv'.trans hrsv.symm) (hd'.symm.trans hd)

theorem displayWord_eq_of_decodeCommand {w : CmdWord} (h : decodeCommand w = .ok .display) : displayWord = w := by
  obtain ⟨hop, ha, hrsv, hd⟩ := decodeCommand_eq_display_iff.mp h
  exact CmdWord.ext_fields hop.symm ha.symm hrsv.symm hd.symm

/-- Settles O3, by the packet: a legal word is a PRINT or a DISPLAY, and its fields leave no other word. -/
theorem encodeOfDecode : Obligations.EncodeOfDecode := by
  intro p i h
  cases p with
  | lookup cp => cases h; rfl
  | command w =>
    obtain rfl | rfl := decodeCommand_cases h
    · rw [encode_print, printWord_eq_of_decodeCommand h]
    · exact congrArg Packet.command (displayWord_eq_of_decodeCommand h)

/-- R82: operands in range do not overflow the word. -/
theorem toNat_printWord {pos cp : Nat} (hpos : pos < 4) (hcp : cp < 256) :
    (printWord pos cp).toNat = 0x1000 ||| (pos <<< 10) ||| cp := by
  have hpos' : pos < 2 ^ 16 := by omega
  have hshift : pos <<< 10 < 2 ^ 16 := by omega
  have hcp' : cp < 2 ^ 16 := by omega
  simp only [printWord, BitVec.toNat_or, BitVec.toNat_shiftLeft, BitVec.toNat_ofNat, Nat.mod_eq_of_lt,
    hpos', hshift, hcp']

/-- Settles O51: in range the operands of the line are those of the instruction. -/
theorem printLineWord : Obligations.PrintLineWord := by
  intro pos cp hpos hcp
  have hword : printWord (BitVec.ofNat 2 pos).toNat (BitVec.ofNat 8 cp).toNat = printWord pos cp := by
    rw [BitVec.toNat_ofNat, BitVec.toNat_ofNat, Nat.mod_eq_of_lt hpos, Nat.mod_eq_of_lt hcp]
  refine ⟨toNat_printWord hpos hcp, ?_, ?_⟩
  · rw [encode_print, hword]
  · rw [← hword, decodeCommand_printWord]

end Sys2Proof
end

section
/-! Acceptance of a command (R76), the refusal of an illegal one (R79), and when a step has a next state (R35). -/

namespace Sys2Proof.Machine

/-- Settles O17: a busy block accepts neither command. -/
theorem commandsTurnedAwayWhileBusy : Obligations.CommandsTurnedAwayWhileBusy :=
  fun _ _ _ _ _ _ hseq => ⟨accept_busy _ hseq, accept_busy _ hseq⟩

/-! ## When a command is accepted -/

theorem State.acceptsCommand_iff (s : State) :
    s.acceptsCommand = true ↔
      (nextPorts s.inputs).cmdValid = true ∧ s.cmdReady = true ∧ (nextPorts s.inputs).rst = false := by
  simp [State.acceptsCommand, and_assoc]

/-- R31: with RST = 0 the block is ready exactly when the sequencer is idle. -/
theorem State.acceptsCommand_iff_idle (s : State) :
    s.acceptsCommand = true ↔
      (nextPorts s.inputs).cmdValid = true ∧ s.seq = .idle ∧ (nextPorts s.inputs).rst = false := by
  obtain ⟨hbusy, hready⟩ := busyOutput s
  rw [s.acceptsCommand_iff, hready, ← Bool.not_eq_true, hbusy]
  simp

theorem step_presented {s : State} {p : Ports} {rest : List HostEvent} (hin : s.inputs = .clock p :: rest)
    (hrst : p.rst = false) (hvalid : p.cmdValid = true) (hdone : s.resetDone = true) (hseq : s.seq = .idle) :
    step s = commandEdge p.cmd { s with inputs := rest } :=
  (step_clock hin).trans (clockEdge_command (s := { s with inputs := rest }) hrst hdone hseq hvalid)

/-- R76: an edge that accepts nothing reads neither CMD_VALID nor CMD. -/
theorem clockEdge_not_accepting {p : Ports} {s : State} (hdone : s.resetDone = true)
    (h : ¬ (p.cmdValid = true ∧ s.seq = .idle ∧ p.rst = false)) :
    clockEdge p s = clockEdge { rst := p.rst, cmdValid := false, cmd := 0#16 } s := by
  cases hrst : p.rst with
  | true => rw [clockEdge_reset s hrst, clockEdge_reset s rfl]
  | false =>
    cases hseq : s.seq with
    | busy j k n => rw [clockEdge_busy hrst hdone hseq, clockEdge_busy rfl hdone hseq]
    | idle =>
      have hvalid : p.cmdValid = false := by simpa [hrst, hseq] using h
      rw [clockEdge_quiet hrst hdone hseq hvalid, clockEdge_quiet rfl hdone hseq rfl]

/-- Settles O35: `step_presented` where the command is accepted, `clockEdge_not_accepting` where it is not. -/
theorem commandAcceptedExactly : Obligations.CommandAcceptedExactly := by
  intro s p rest hdone hin
  have hports : nextPorts s.inputs = p := by rw [hin]; rfl
  have haccepts := s.acceptsCommand_iff_idle
  rw [hports] at haccepts
  refine ⟨by rw [s.acceptsCommand_iff, hports], fun hacc => ?_, fun hacc => ?_⟩
  · obtain ⟨hvalid, hseq, hrst⟩ := haccepts.mp hacc
    exact step_presented hin hrst hvalid hdone hseq
  · rw [step_clock hin, step_clock rfl]
    exact clockEdge_not_accepting (s := { s with inputs := rest }) hdone (haccepts.not.mp (by simp [hacc]))

/-! ## Illegal words -/

/-- R79 (a): the opcodes of the rule are the two of the table left out. -/
theorem reservedOpcode_iff (op : BitVec 4) : (op = 0#4 ∨ 3 ≤ op.toNat) ↔ op ≠ 1#4 ∧ op ≠ 2#4 := by
  revert op; decide

/-- Settles O5: `decodeCommand_error_iff` in the terms of R79, and the refusal of the accepting edge. -/
theorem illegalWordsRefused : Obligations.IllegalWordsRefused := by
  refine ⟨fun w => ?_, fun s p rest why hin hrst hvalid hdone hseq hwhy => ?_⟩
  · have hexcl : opField w = 1#4 → opField w ≠ 2#4 := fun h => by simp [h]
    rw [decodeCommand_error_iff, reservedOpcode_iff]
    tauto
  · rw [step_presented hin hrst hvalid hdone hseq, commandEdge_illegal hwhy]

/-! ## When a step has a next state -/

theorem commandEdge_next_iff {w : CmdWord} {s : State} (hseq : s.seq = .idle) :
    (∃ t, commandEdge w s = .next t) ↔ ¬ ∃ why, decodeCommand w = .error why := by
  cases hw : decodeCommand w with
  | error why => simp [commandEdge_illegal hw]
  | ok i =>
    obtain rfl | rfl := decodeCommand_cases hw
    · simp [commandEdge_print hseq hw]
    · simp [commandEdge_display hseq hw]

theorem clockEdge_beforeReset {p : Ports} {s : State} (hrst : p.rst = false) (hdone : s.resetDone = false) :
    clockEdge p s = .refused .stepBeforeReset := by
  simp [clockEdge, hrst, hdone]

theorem clockEdge_next_iff (p : Ports) (s : State) :
    (∃ t, clockEdge p s = .next t) ↔
      p.rst = true ∨ (s.resetDone = true ∧
        ¬ ((p.cmdValid = true ∧ s.seq = .idle ∧ p.rst = false) ∧ ∃ why, decodeCommand p.cmd = .error why)) := by
  cases hrst : p.rst with
  | true => simp [clockEdge_reset s hrst]
  | false =>
    cases hdone : s.resetDone with
    | false => simp [clockEdge_beforeReset hrst hdone]
    | true =>
      cases hseq : s.seq with
      | busy j k n => simp [clockEdge_busy hrst hdone hseq]
      | idle =>
        cases hvalid : p.cmdValid with
        | false => simp [clockEdge_quiet hrst hdone hseq hvalid]
        | true => simpa [clockEdge_command hrst hdone hseq hvalid] using commandEdge_next_iff (w := p.cmd) hseq

theorem exists_step_of_lookupNext {s : State} (h : s.lookupNext = true) : ∃ t, step s = .next t := by
  cases hin : s.inputs with
  | nil => simp [State.lookupNext, hin] at h
  | cons e rest =>
    cases e with
    | lookup cp => exact ⟨_, step_lookup hin⟩
    | clock p => simp [State.lookupNext, hin] at h

/-- Settles O41: a step is a lookup, or the edge of `clockEdge_next_iff`. -/
theorem stepHasNextState : Obligations.StepHasNextState := by
  intro s
  constructor
  · cases hlook : s.lookupNext with
    | true => exact iff_of_true (exists_step_of_lookupNext hlook) (.inl rfl)
    | false =>
      rw [step_edge hlook, clockEdge_next_iff, s.acceptsCommand_iff_idle, nextPorts_rst hlook]
      simp
  · intro hdone hlook hrst
    rw [step_edge hlook]
    exact clockEdge_beforeReset ((nextPorts_rst hlook).trans hrst) hdone

end Sys2Proof.Machine
end

section
/-! The SegmentEncoder (R100 to R107): the lookup by the range of its code point, and TRANSLATE as an instruction. -/

namespace Sys2Proof.Machine

/-! ## The lookup, over any table -/

/-- R101: no entry of `rom` is in the result. -/
theorem translateWith_of_outside (rom : Fin 95 → Byte) {cp : Byte} (h : ¬ (0x20 ≤ cp.toNat ∧ cp.toNat ≤ 0x7E)) :
    translateWith rom cp = { pat := sentinel, noglyph := true } :=
  dif_neg h

/-- R102, R103: a code point in the range is decided by its entry, as `translateCp_of_index` says for the block's ROM. -/
theorem translateWith_of_index (rom : Fin 95 → Byte) {cp : Byte} (i : Fin 95) (h : cp.toNat = 0x20 + i.val) :
    translateWith rom cp = if rom i = sentinel then { pat := sentinel, noglyph := true }
      else { pat := rom i, noglyph := false } := by
  have hi : (⟨cp.toNat - 0x20, by omega⟩ : Fin 95) = i := Fin.ext (by simp [h])
  rw [translateWith, dif_pos (by omega), hi]

/-- R104: the index of a code point in the range does not wrap. -/
theorem exists_index_of_inside {cp : Byte} (h : 0x20 ≤ cp.toNat ∧ cp.toNat ≤ 0x7E) :
    ∃ i : Fin 95, cp.toNat = 0x20 + i.val :=
  ⟨⟨cp.toNat - 0x20, by omega⟩, (Nat.add_sub_of_le h.1).symm⟩

/-- R105: an entry that is the sentinel is never given as a glyph's pattern. -/
theorem translateWith_pat_eq_sentinel_iff (rom : Fin 95 → Byte) (cp : Byte) :
    (translateWith rom cp).pat = sentinel ↔ (translateWith rom cp).noglyph = true := by
  by_cases hrange : 0x20 ≤ cp.toNat ∧ cp.toNat ≤ 0x7E
  · obtain ⟨i, hi⟩ := exists_index_of_inside hrange
    rw [translateWith_of_index rom i hi]
    split_ifs with hentry
    · simp
    · simpa using hentry
  · simp [translateWith_of_outside rom hrange]

/-- Settles O8: `translateWith_pat_eq_sentinel_iff` for `rom` and for the block's ROM. -/
theorem sentinelIffNoGlyph : Obligations.SentinelIffNoGlyph := fun rom cp =>
  ⟨translateWith_pat_eq_sentinel_iff rom cp, translateWith_pat_eq_sentinel_iff charTable cp⟩

/-- Settles O6. -/
theorem translateOutsideRange : Obligations.TranslateOutsideRange := by
  intro rom cp hout
  have hrange : ¬ (0x20 ≤ cp.toNat ∧ cp.toNat ≤ 0x7E) := by omega
  exact ⟨translateWith_of_outside rom hrange, translateWith_of_outside charTable hrange⟩

/-- Settles O7: the two branches of `translateWith_of_index`. -/
theorem translateInsideRange : Obligations.TranslateInsideRange := by
  refine ⟨fun rom cp i hlow _ hi => ?_, fun _ => rfl⟩
  have hindex : cp.toNat = 0x20 + i.val := by omega
  rw [translateWith_of_index rom i hindex]
  exact ⟨fun hentry => if_pos hentry, fun hentry => if_neg hentry⟩

/-! ## TRANSLATE -/

/-- R107: in every state TRANSLATE completes, and ROM_CP is all it sets. -/
theorem exec_translate (cp : Byte) (s : State) : exec (.translate cp) s = .next { s with romCp := cp } := rfl

/-- R81, R107: what the lookup port shows while the host holds `cp` on ROM_CP. -/
theorem lookupOutputs_of_romCp {cp : Byte} {t : State} (h : t.romCp = cp) :
    t.romPat = (translateCp cp).pat ∧ t.romNoglyph = (translateCp cp).noglyph := by
  subst h; exact ⟨rfl, rfl⟩

/-- Settles O11: `exec_translate`, and `step_lookup` for the step. -/
theorem translateCompletes : Obligations.TranslateCompletes :=
  ⟨fun cp s => ⟨_, exec_translate cp s, rfl, lookupOutputs_of_romCp rfl⟩,
    fun _ _ _ hin => ⟨_, step_lookup hin, rfl, lookupOutputs_of_romCp rfl⟩⟩

theorem romCp_of_exec_translate {cp : Byte} {s t : State} (h : exec (.translate cp) s = .next t) : t.romCp = cp := by
  rw [exec_translate] at h; cases h; rfl

/-- Settles O12: either state shows the results for `cp`. -/
theorem lookupDependsOnCodePointAlone : Obligations.LookupDependsOnCodePointAlone := by
  intro cp s₁ s₂ t₁ t₂ h₁ h₂
  obtain ⟨hpat₁, hno₁⟩ := lookupOutputs_of_romCp (romCp_of_exec_translate h₁)
  obtain ⟨hpat₂, hno₂⟩ := lookupOutputs_of_romCp (romCp_of_exec_translate h₂)
  exact ⟨hpat₁.trans hpat₂.symm, hno₁.trans hno₂.symm⟩

end Sys2Proof.Machine
end

section
/-! The DisplayDriver's commands at their acceptance edge (R120, R121, R124): what they write, and what they leave. -/

namespace Sys2Proof.Machine

theorem exec_print (pos : BitVec 2) (cp : Byte) (s : State) :
    exec (.print pos cp) s = accept (printEffect cp) s := rfl

theorem exec_display (s : State) : exec .display s = accept (loadFrame 0) s := rfl

/-- R120: PRINT's word stands in its row and has the operands in A and D. -/
theorem encode_print_fields (pos : BitVec 2) (cp : Byte) :
    ∃ w, encode (.print pos cp) = .command w ∧ w &&& 0xF300#16 = 0x1000#16 ∧ aField w = pos ∧ dField w = cp :=
  ⟨_, encode_print pos cp, (CommandRow.matchesWord_iff _ _).mp (printRow_matchesWord_printWord pos cp),
    aField_printWord pos cp, dField_printWord pos cp⟩

/-- Settles O13: an idle block accepts the PRINT, so its next state is that of `printEffect`. -/
theorem printResult : Obligations.PrintResult := by
  refine ⟨encode_print_fields, fun pos cp s hseq => ?_⟩
  refine ⟨printEffect cp (newCycle s), ?_, ?_⟩
  · rw [exec_print, accept_idle _ hseq]
  · simp [hseq, State.busyOut]

/-- Settles O14: `exec_print` does not have the position on its right side. -/
theorem printIgnoresPosition : Obligations.PrintIgnoresPosition := fun pos cp s => by
  rw [exec_print, exec_print]

/-- Settles O15: an accepted PRINT has the frame of `printEffect`, and one that is turned away changes nothing. -/
theorem printFrame : Obligations.PrintFrame := by
  intro pos cp s t h
  rw [exec_print] at h
  obtain ⟨-, rfl⟩ | ⟨-, rfl⟩ := accept_cases h
  · simp
  · simp

/-- Settles O19: the same for the frame that DISPLAY loads. -/
theorem displayFrame : Obligations.DisplayFrame := by
  intro s t h
  rw [exec_display] at h
  obtain ⟨-, rfl⟩ | ⟨-, rfl⟩ := accept_cases h
  · simp
  · simp

end Sys2Proof.Machine
end

section
/-! The host's lines that print a text and that refresh the display (R82, R122, R130). -/

namespace Sys2Proof.Machine

theorem PrintLine.word_prints (pos : Nat) (text : List Byte) :
    (PrintLine.prints pos text).word = (PrintLine.print pos (textCodePoint text).toNat).word := rfl

/-- Settles O52: 0x00 is below the table. -/
theorem textPresentsFirstByte : Obligations.TextPresentsFirstByte :=
  ⟨fun pos c more => PrintLine.word_prints pos (c :: more), fun pos => PrintLine.word_prints pos [],
    translateWith_of_outside charTable (by decide)⟩

theorem AsmLine.expand_refresh (body : List PrintLine) :
    (AsmLine.refresh body).expand =
      body.flatMap (fun p => (AsmLine.print p).expand) ++ AsmLine.display.expand :=
  congrArg (· ++ AsmLine.display.expand) List.map_eq_flatMap

/-- Settles O53. -/
theorem refreshExpansion : Obligations.RefreshExpansion :=
  ⟨AsmLine.expand_refresh, AsmLine.expand_refresh []⟩

end Sys2Proof.Machine
end

section
/-! DIGIT_COUNT is read by no rule (R126): every operation commutes with a change of it, and so does the step. -/

namespace Sys2Proof.Machine

/-- The state with another level on DIGIT_COUNT. -/
def State.withDigitCount (d : Nat) (s : State) : State := { s with digitCount := d }

/-- The outcome with `f` done to its next state. -/
def mapNext (f : State → State) : Host.Outcome State Fault Refusal → Host.Outcome State Fault Refusal
  | .next t => .next (f t)
  | .fault r => .fault r
  | .refused r => .refused r

section
variable (d : Nat) (s : State)

theorem printEffect_withDigitCount (cp : Byte) :
    printEffect cp (s.withDigitCount d) = (printEffect cp s).withDigitCount d := by
  simp only [printEffect]; split_ifs <;> rfl

theorem pinWrite_withDigitCount (e : PinEvent) :
    pinWrite e (s.withDigitCount d) = (pinWrite e s).withDigitCount d := by
  obtain ⟨p, l⟩ := e; cases p <;> rfl

theorem advance_withDigitCount (j : Fin 4) (t : Fin 59) (h : Nat) :
    advance j t h (s.withDigitCount d) = (advance j t h s).withDigitCount d := by
  have hcycles : (s.withDigitCount d).stepCycles = s.stepCycles := rfl
  unfold advance
  rw [hcycles]
  split_ifs <;> rfl

theorem busyEdge_withDigitCount (j : Fin 4) (t : Fin 59) (h : Nat) :
    busyEdge j t h (s.withDigitCount d) = (busyEdge j t h s).withDigitCount d := by
  have hwrite : microStep t (newCycle (s.withDigitCount d)).fr (newCycle (s.withDigitCount d)) =
      (microStep t (newCycle s).fr (newCycle s)).withDigitCount d :=
    pinWrite_withDigitCount d (newCycle s) _
  simp only [busyEdge]
  split_ifs
  · rw [hwrite, advance_withDigitCount]
  · exact advance_withDigitCount d (newCycle s) j t h

variable {d} in
/-- A command whose effect does not read DIGIT_COUNT is accepted or turned away without reading it. -/
theorem accept_withDigitCount {f : State → State}
    (hf : ∀ u, f (u.withDigitCount d) = (f u).withDigitCount d) :
    accept f (s.withDigitCount d) = mapNext (State.withDigitCount d) (accept f s) := by
  cases hseq : s.seq with
  | idle =>
    rw [accept_idle f hseq, accept_idle f (s := s.withDigitCount d) hseq]
    exact congrArg Host.Outcome.next (hf (newCycle s))
  | busy j k n => rw [accept_busy f hseq, accept_busy f (s := s.withDigitCount d) hseq]; rfl

/-- R126, by the instruction. -/
theorem exec_withDigitCount (i : Instr) :
    exec i (s.withDigitCount d) = mapNext (State.withDigitCount d) (exec i s) := by
  cases i with
  | print pos cp => exact accept_withDigitCount s (printEffect_withDigitCount d · cp)
  | display => exact accept_withDigitCount s fun _ => rfl
  | translate cp => rfl

theorem commandEdge_withDigitCount (w : CmdWord) :
    commandEdge w (s.withDigitCount d) = mapNext (State.withDigitCount d) (commandEdge w s) := by
  unfold commandEdge
  cases decode (.command w) with
  | ok i => exact exec_withDigitCount d s i
  | error why => rfl

/-- R126, by the case of R160 that the edge takes. -/
theorem clockEdge_withDigitCount (p : Ports) :
    clockEdge p (s.withDigitCount d) = mapNext (State.withDigitCount d) (clockEdge p s) := by
  cases hrst : p.rst with
  | true => rw [clockEdge_reset s hrst, clockEdge_reset _ hrst]; rfl
  | false =>
    cases hdone : s.resetDone with
    | false =>
      rw [clockEdge_beforeReset hrst hdone, clockEdge_beforeReset (s := s.withDigitCount d) hrst hdone]; rfl
    | true =>
      cases hseq : s.seq with
      | busy j k n =>
        rw [clockEdge_busy hrst hdone hseq, clockEdge_busy (s := s.withDigitCount d) hrst hdone hseq,
          busyEdge_withDigitCount]
        rfl
      | idle =>
        cases hvalid : p.cmdValid with
        | false =>
          rw [clockEdge_quiet hrst hdone hseq hvalid,
            clockEdge_quiet (s := s.withDigitCount d) hrst hdone hseq hvalid]
          rfl
        | true =>
          rw [clockEdge_command hrst hdone hseq hvalid,
            clockEdge_command (s := s.withDigitCount d) hrst hdone hseq hvalid, commandEdge_withDigitCount]

/-- R126: the step commutes with a change of DIGIT_COUNT, whatever its outcome. -/
theorem step_withDigitCount : step (s.withDigitCount d) = mapNext (State.withDigitCount d) (step s) := by
  cases hin : s.inputs with
  | nil =>
    rw [step_quiet hin, step_quiet (s := s.withDigitCount d) hin]
    exact clockEdge_withDigitCount d s.takeEvent quietPorts
  | cons e rest =>
    cases e with
    | lookup cp => rw [step_lookup hin, step_lookup (s := s.withDigitCount d) hin]; rfl
    | clock p =>
      rw [step_clock hin, step_clock (s := s.withDigitCount d) hin]
      exact clockEdge_withDigitCount d { s with inputs := rest } p

end

/-- Settles O24: `step_withDigitCount` at the two outcomes that a step can have. -/
theorem digitCountHasNoEffect : Obligations.DigitCountHasNoEffect := fun s d =>
  ⟨fun _ h => (step_withDigitCount d s).trans (congrArg (mapNext (State.withDigitCount d)) h),
    fun _ h => (step_withDigitCount d s).trans (congrArg (mapNext (State.withDigitCount d)) h)⟩

end Sys2Proof.Machine
end

section
/-! A pass as it runs (R128, R160, R212): every edge brings it one nearer to its end, whatever commands are presented. -/

namespace Sys2Proof.Machine

/-- How many more edges the block needs until it is idle (R160, R212). -/
def State.edgesToIdle (s : State) : Nat :=
  match s.seq with
  | .idle => 0
  | .busy j k h => edgesLeft j k h s.stepCycles

theorem State.edgesToIdle_of_idle {s : State} (hseq : s.seq = .idle) : s.edgesToIdle = 0 := by
  simp only [State.edgesToIdle, hseq]

theorem State.edgesToIdle_of_busy {s : State} {j k h} (hseq : s.seq = .busy j k h) :
    s.edgesToIdle = edgesLeft j k h s.stepCycles := by
  simp only [State.edgesToIdle, hseq]

theorem edgesLeft_pos (j : Fin 4) (k : Fin 59) {h S : Nat} (hS : h < S) : 0 < edgesLeft j k h S := by
  unfold edgesLeft; omega

/-- R160: the counts leave no edge exactly where the sequencer is idle. -/
theorem State.edgesToIdle_eq_zero_iff {s : State} (hrange : s.seqInRange) : s.edgesToIdle = 0 ↔ s.seq = .idle := by
  cases hseq : s.seq with
  | idle => simp [State.edgesToIdle_of_idle hseq]
  | busy j k h =>
    have hpos := edgesLeft_pos j k (hrange.2 j k h hseq)
    simp [State.edgesToIdle_of_busy hseq, hpos.ne']

/-- A whole pass is 4 frames of 59 micro-steps (R212). -/
theorem edgesLeft_start (S : Nat) : edgesLeft 0 0 0 S = 236 * S := by
  change (59 * 3 + 58) * S + S = 236 * S
  omega

/-! ## One edge -/

/-- The last cycle of a micro-step leaves the cycles of the micro-steps after it. -/
theorem edgesLeft_lastCycle {j : Fin 4} {k : Fin 59} {h S : Nat} (hh : h + 1 = S) :
    edgesLeft j k h S = (59 * (3 - j.val) + (58 - k.val)) * S + 1 := by
  unfold edgesLeft; omega

/-- The start of a micro-step leaves its own cycles and those of the micro-steps after it. -/
theorem edgesLeft_firstCycle (j : Fin 4) (k : Fin 59) (S : Nat) :
    edgesLeft j k 0 S = (59 * (3 - j.val) + (58 - k.val) + 1) * S := by
  rw [Nat.succ_mul]; rfl

/-- R160: an edge of a pass keeps the cycle count in range and uses up one of the edges left. -/
theorem busyEdge_uses_edge {s : State} {j : Fin 4} {k : Fin 59} {h : Nat} (hseq : s.seq = .busy j k h)
    (hrange : s.seqInRange) :
    (busyEdge j k h s).seqInRange ∧ (busyEdge j k h s).edgesToIdle + 1 = s.edgesToIdle := by
  have hh : h < s.stepCycles := hrange.2 j k h hseq
  have hcycles := busyEdge_stepCycles j k h s
  rw [State.edgesToIdle_of_busy hseq]
  obtain ⟨hlt, hseq', -⟩ | ⟨hle, hk, hseq', -⟩ | ⟨hle, hk, hj, hseq', -⟩ | ⟨hle, hk, hj, hseq'⟩ :=
    busyEdge_cases j k h s
  · refine ⟨State.seqInRange_of_busy hseq' (by omega), ?_⟩
    rw [State.edgesToIdle_of_busy hseq', hcycles]
    unfold edgesLeft
    omega
  · refine ⟨State.seqInRange_of_busy hseq' (by omega), ?_⟩
    have hleft : 59 * (3 - j.val) + (58 - (k.val + 1)) + 1 = 59 * (3 - j.val) + (58 - k.val) := by omega
    rw [State.edgesToIdle_of_busy hseq', hcycles, edgesLeft_firstCycle, edgesLeft_lastCycle (by omega), hleft]
  · refine ⟨State.seqInRange_of_busy hseq' (by omega), ?_⟩
    have hleft : 59 * (3 - (j.val + 1)) + 58 + 1 = 59 * (3 - j.val) + (58 - k.val) := by omega
    rw [State.edgesToIdle_of_busy hseq', hcycles, edgesLeft_firstCycle, edgesLeft_lastCycle (by omega), ← hleft]
    rfl
  · refine ⟨State.seqInRange_of_idle hseq' (by omega), ?_⟩
    rw [State.edgesToIdle_of_idle hseq', edgesLeft_lastCycle (by omega), hj, hk]
    simp

/-! ## Many edges -/

/-- The induction over the edges of a pass: what every edge of a pass keeps holds as long as the pass runs, and each
edge brings the pass one nearer to its end. No command that is presented meanwhile has a part in it. -/
theorem runSteps_pass {P : State → Prop}
    (hkeep : ∀ {u : State} {j k h}, u.seq = .busy j k h → P u → P (busyEdge j k h u.takeEvent))
    {n : Nat} {s : State} (hdone : s.resetDone = true) (hrange : s.seqInRange) (hrun : runningEdges n s)
    (hn : n ≤ s.edgesToIdle) (hP : P s) :
    ∃ t, runSteps n s = .next t ∧ t.seqInRange ∧ t.edgesToIdle + n = s.edgesToIdle ∧ P t := by
  induction n generalizing s with
  | zero => exact ⟨s, rfl, hrange, rfl, hP⟩
  | succ n ih =>
    obtain ⟨hlook, hrst⟩ := runningEdges_head hrun
    cases hseq : s.seq with
    | idle => rw [State.edgesToIdle_of_idle hseq] at hn; omega
    | busy j k h =>
      obtain ⟨hrange', hleft⟩ := busyEdge_uses_edge (s := s.takeEvent) hseq hrange
      change _ = s.edgesToIdle at hleft
      obtain ⟨t, ht, htrange, htleft, htP⟩ := ih (s := busyEdge j k h s.takeEvent) (by simpa using hdone) hrange'
        (runningEdges_tail hrun (by simp)) (by omega) (hkeep hseq hP)
      exact ⟨t, (runSteps_succ n (step_busy hlook hrst hdone hseq)).trans ht, htrange, by omega, htP⟩

/-- Settles O23: after as many edges as are left none is left, and after fewer some are. -/
theorem passAlwaysCompletes : Obligations.PassAlwaysCompletes := by
  intro s j k h hdone hrange hseq hrun
  rw [← State.edgesToIdle_of_busy hseq] at hrun ⊢
  have hpass {m} (hm : m ≤ s.edgesToIdle) : ∃ t, runSteps m s = .next t ∧ t.seqInRange ∧
      t.edgesToIdle + m = s.edgesToIdle ∧ True :=
    runSteps_pass (P := fun _ => True) (fun _ _ => trivial) hdone hrange (runningEdges_mono hm hrun) hm trivial
  constructor
  · obtain ⟨t, ht, htrange, hleft, -⟩ := hpass le_rfl
    exact ⟨t, ht, (State.edgesToIdle_eq_zero_iff htrange).mp (by omega)⟩
  · intro m hm
    obtain ⟨t, ht, htrange, hleft, -⟩ := hpass hm.le
    exact ⟨t, ht, (State.edgesToIdle_eq_zero_iff htrange).not.mp (by omega)⟩

end Sys2Proof.Machine
end

section
/-! What a pass writes (R125, R153, R161): the writes of its four frames, one after the other, and no other. -/

namespace Sys2Proof.Machine

/-! ## The lines and TRACE together -/

/-- What the PinWrites of R10 act on: CLK, DAT and TRACE. -/
structure Wire where
  clk : Level
  dat : Level
  trace : List PinEvent

/-- The wire of a state. -/
def State.wire (s : State) : Wire := { clk := s.clk, dat := s.dat, trace := s.trace }

/-- A PinWrite on the wire. -/
def Wire.write (w : Wire) (e : PinEvent) : Wire where
  clk := if e.pin = .clk then e.level else w.clk
  dat := if e.pin = .dat then e.level else w.dat
  trace := w.trace ++ [e]

theorem pinWrite_wire (e : PinEvent) (s : State) : (pinWrite e s).wire = s.wire.write e := by
  simp [State.wire, Wire.write, pinWrite_clk, pinWrite_dat]

theorem Wire.foldl_write_trace (l : List PinEvent) (w : Wire) : (l.foldl Wire.write w).trace = w.trace ++ l := by
  induction l generalizing w with
  | nil => simp
  | cons e l ih => simp [ih, Wire.write]

/-- R74, R125: a pass ends with the latch of the frame of slot 3. -/
theorem passTrace_ends_with_latch (b : Buffer) : ∃ before, passTrace b = before ++ latchWrites :=
  ⟨_, (List.append_assoc _ _ _).symm⟩

/-- R74: the latch leaves CLK = 0 and DAT = 1, and so a pass does. -/
theorem lines_after_passTrace (b : Buffer) (w : Wire) :
    ((passTrace b).foldl Wire.write w).clk = false ∧ ((passTrace b).foldl Wire.write w).dat = true := by
  obtain ⟨before, hpass⟩ := passTrace_ends_with_latch b
  rw [hpass, List.foldl_append]
  exact ⟨rfl, rfl⟩

/-! ## The part of a pass that is made -/

/-- How many writes of the latest pass are made: all of them once it is over. -/
def State.passWrites (s : State) : Nat :=
  match s.seq with
  | .idle => 236
  | .busy j k h => writesMade j k h

theorem State.passWrites_of_idle {s : State} (hseq : s.seq = .idle) : s.passWrites = 236 := by
  simp only [State.passWrites, hseq]

theorem State.passWrites_of_busy {s : State} {j k h} (hseq : s.seq = .busy j k h) :
    s.passWrites = writesMade j k h := by
  simp only [State.passWrites, hseq]

/-- In each of the four ways the sequencer can advance, its new place counts the write of the micro-step as made. -/
theorem busyEdge_passWrites (j : Fin 4) (k : Fin 59) (h : Nat) (s : State) :
    (busyEdge j k h s).passWrites = 59 * j.val + k.val + 1 := by
  obtain ⟨-, hseq, -⟩ | ⟨-, _, hseq, -⟩ | ⟨-, hk, _, hseq, -⟩ | ⟨-, hk, hj, hseq⟩ := busyEdge_cases j k h s
  · simp [State.passWrites_of_busy hseq, writesMade]
  · simp [State.passWrites_of_busy hseq, writesMade, Nat.add_assoc]
  · simp [State.passWrites_of_busy hseq, writesMade, hk, Nat.mul_add]
  · simp [State.passWrites_of_idle hseq, hk, hj]

/-- The wire after an edge of a pass: one write when the micro-step begins, none while it is held. -/
theorem busyEdge_wire (j : Fin 4) (k : Fin 59) (h : Nat) (s : State) :
    (busyEdge j k h s).wire = if h = 0 then s.wire.write (microWrite k s.fr) else s.wire := by
  rw [← pinWrite_wire]
  simp only [State.wire, busyEdge_clk, busyEdge_dat, busyEdge_trace]
  split_ifs
  · simp [microStep]
  · rfl

/-- What holds of a block `t` in the pass that began at `start`: BUF is untouched, FR holds the frame being sent, and the
writes made are the first ones of the four frames. -/
structure PassSoFar (start t : State) : Prop where
  cycles : t.stepCycles = start.stepCycles
  buf : t.buf = start.buf
  frame : t.frHoldsFrame
  wire : t.wire = ((passTrace start.buf).take t.passWrites).foldl Wire.write start.wire

/-- R153, R160: the write that an edge of a pass makes is the next one of the four frames. -/
theorem busyEdge_keeps_passSoFar {start s : State} (hcycles : 1 ≤ start.stepCycles) {j : Fin 4} {k : Fin 59} {h : Nat}
    (hseq : s.seq = .busy j k h) (hs : PassSoFar start s) : PassSoFar start (busyEdge j k h s.takeEvent) := by
  obtain ⟨hcycles', hbuf, hframe, hwire⟩ := hs
  have hfr : s.fr = frameWord j (s.buf.get j) := hframe j k h hseq
  refine ⟨by simpa using hcycles', by simpa using hbuf,
    (busyEdge_keeps_sequencer (s := s.takeEvent) (hcycles.trans_eq hcycles'.symm) hfr).2, ?_⟩
  have hwire' : s.takeEvent.wire = _ := hwire
  rw [busyEdge_passWrites, busyEdge_wire, hwire', State.passWrites_of_busy hseq, ← hbuf]
  by_cases hh : h = 0
  · simp [hh, writesMade, hfr, passTrace_take_succ]
  · simp [hh, writesMade]

/-- The start of a pass, with no write made. -/
theorem passSoFar_start {s : State} (hseq : s.seq = .busy 0 0 0) (hfr : s.fr = frameWord 0 s.buf.slot0) :
    PassSoFar s s :=
  ⟨rfl, rfl, State.frHoldsFrame_of_busy hseq hfr, by simp [State.passWrites_of_busy hseq, writesMade]⟩

/-- R160, R161: `m` edges after the start of a pass, with RST held at 0. -/
theorem runSteps_passSoFar {s : State} (hdone : s.resetDone = true) (hcycles : 1 ≤ s.stepCycles)
    (hseq : s.seq = .busy 0 0 0) (hfr : s.fr = frameWord 0 s.buf.slot0) {m : Nat} (hm : m ≤ 236 * s.stepCycles)
    (hrun : runningEdges m s) :
    ∃ t, runSteps m s = .next t ∧ t.seqInRange ∧ t.edgesToIdle + m = 236 * s.stepCycles ∧ PassSoFar s t := by
  have hedges : s.edgesToIdle = 236 * s.stepCycles := by rw [State.edgesToIdle_of_busy hseq, edgesLeft_start]
  rw [← hedges] at hm ⊢
  exact runSteps_pass (busyEdge_keeps_passSoFar hcycles) hdone (State.seqInRange_of_busy hseq hcycles) hrun hm
    (passSoFar_start hseq hfr)

/-- R125, R161: a whole pass makes the writes of the four frames of BUF, and the block is idle. -/
theorem runSteps_wholePass {s : State} (hdone : s.resetDone = true) (hcycles : 1 ≤ s.stepCycles)
    (hseq : s.seq = .busy 0 0 0) (hfr : s.fr = frameWord 0 s.buf.slot0)
    (hrun : runningEdges (236 * s.stepCycles) s) :
    ∃ t, runSteps (236 * s.stepCycles) s = .next t ∧ t.seq = .idle ∧ t.buf = s.buf ∧
      t.wire = (passTrace s.buf).foldl Wire.write s.wire := by
  obtain ⟨t, ht, htrange, hleft, -, hbuf, -, hwire⟩ := runSteps_passSoFar hdone hcycles hseq hfr le_rfl hrun
  have hidle : t.seq = .idle := (State.edgesToIdle_eq_zero_iff htrange).mp (by omega)
  have hwhole : (passTrace s.buf).take t.passWrites = passTrace s.buf :=
    List.take_of_length_le (by simp [State.passWrites_of_idle hidle])
  exact ⟨t, ht, hidle, hbuf, by rw [hwire, hwhole]⟩

/-- Settles O21: the accepting edge starts the pass, and `runSteps_wholePass` is the rest. -/
theorem displayAppendsFourFrames : Obligations.DisplayAppendsFourFrames := by
  intro s p rest hdone hcycles hseq hin hvalid hcmd hrun
  rw [Nat.add_comm] at hrun ⊢
  have hrst : p.rst = false := by simpa [State.resetNext, hin] using (runningEdges_head hrun).2
  have haccept : step s = .next (loadFrame 0 (newCycle { s with inputs := rest })) :=
    (step_presented hin hrst hvalid hdone hseq).trans (commandEdge_display (s := { s with inputs := rest }) hseq hcmd)
  obtain ⟨t, ht, hidle, hbuf, hwire⟩ := runSteps_wholePass (s := loadFrame 0 (newCycle { s with inputs := rest }))
    hdone hcycles rfl rfl (runningEdges_tail hrun (by simp [hin]))
  obtain ⟨hclk, hdat⟩ := lines_after_passTrace s.buf s.wire
  refine ⟨t, (runSteps_succ _ haccept).trans ht, hidle, ?_, hbuf, ?_, ?_⟩
  · exact (congrArg Wire.trace hwire).trans (Wire.foldl_write_trace _ _)
  · exact (congrArg Wire.clk hwire).trans hclk
  · exact (congrArg Wire.dat hwire).trans hdat

end Sys2Proof.Machine
end

section
/-! The micro-step table (R157), the bits of the frame word (R150), and the writes of a frame by position (R151 to
R153). -/

namespace Sys2Proof.Machine

/-! ## The micro-step table -/

section
variable {t : Fin 59} {k : Nat} (F : FrameWord)

theorem microWrite_clockLow (hk : k < 18) (ht : t.val = 3 * k) : microWrite t F = ⟨.clk, false⟩ := by
  have hlt : t.val < 54 := by omega
  have hmod : t.val % 3 = 0 := by omega
  simp only [microWrite, hlt, hmod, if_true]

theorem microWrite_data (hk : k < 18) (ht : t.val = 3 * k + 1) :
    microWrite t F = ⟨.dat, F.getLsbD (17 - k)⟩ := by
  have hlt : t.val < 54 := by omega
  have hmod : t.val % 3 = 1 := by omega
  have hdiv : t.val / 3 = k := by omega
  simp only [microWrite, hlt, hmod, hdiv, if_true]

theorem microWrite_clockHigh (hk : k < 18) (ht : t.val = 3 * k + 2) : microWrite t F = ⟨.clk, true⟩ := by
  have hlt : t.val < 54 := by omega
  have hmod : t.val % 3 = 2 := by omega
  simp only [microWrite, hlt, hmod, if_true]

/-- R74, R156: from micro-step 54 on the writes are those of the latch. -/
theorem microWrite_latch {i : Nat} {e : PinEvent} (he : latchWrites[i]? = some e) (ht : t.val = 54 + i) :
    microWrite t F = e := by
  obtain ⟨t, hlt⟩ := t
  obtain rfl : t = 54 + i := ht
  have hi : i < 5 := by omega
  interval_cases i <;> exact Option.some.inj he

end

/-- Settles O27: a micro-step is the PinWrite of its write. -/
theorem microStepTable : Obligations.MicroStepTable := by
  intro t F s
  have hstep {e} (he : microWrite t F = e) : microStep t F s = pinWrite e s := by rw [microStep, he]
  exact ⟨fun k hk ht => hstep (microWrite_clockLow F hk ht), fun k hk ht => hstep (microWrite_data F hk ht),
    fun k hk ht => hstep (microWrite_clockHigh F hk ht),
    fun ht => hstep (microWrite_latch F (i := 0) rfl ht), fun ht => hstep (microWrite_latch F (i := 1) rfl ht),
    fun ht => hstep (microWrite_latch F (i := 2) rfl ht), fun ht => hstep (microWrite_latch F (i := 3) rfl ht),
    fun ht => hstep (microWrite_latch F (i := 4) rfl ht)⟩

/-- Settles O29. -/
theorem frameIsMicroSteps : Obligations.FrameIsMicroSteps := frame_eq_microWrites

/-! ## The frame word -/

section
variable (j : Fin 4) (b : Byte) {i : Nat}

/-- R150, R152: FR[7:0] is the byte. -/
theorem frameWord_getLsbD_byte (hi : i < 8) : (frameWord j b).getLsbD i = b.getLsbD i := by
  interval_cases i <;> simp [frameWord]

/-- R150, R152: FR[13:8] is the padding. -/
theorem frameWord_getLsbD_padding (hlow : 8 ≤ i) (hi : i < 14) : (frameWord j b).getLsbD i = true := by
  interval_cases i <;> simp [frameWord]

/-- R150, R151: FR[17:14] is the upper nibble of the address code. -/
theorem frameWord_getLsbD_address (hlow : 14 ≤ i) (hi : i < 18) :
    (frameWord j b).getLsbD i = (addrCode j).getLsbD (i - 10) := by
  interval_cases i <;> simp [frameWord]

/-- R150, R154: the data write of bit `k` of the frame carries the frame word's bit `17 - k`. -/
theorem frame_data {k : Nat} (hk : k < 18) :
    (frame j b)[3 * k + 1]? = some ⟨.dat, (frameWord j b).getLsbD (17 - k)⟩ := by
  rw [← microWrite_data (t := ⟨3 * k + 1, by omega⟩) _ hk rfl]
  exact frame_getElem? j b ⟨3 * k + 1, by omega⟩

end

/-- Settles O25: the fields bit by bit, and the data writes of the frame by position. -/
theorem frameWordValue : Obligations.FrameWordValue := by
  intro j b
  refine ⟨?_, ?_, ?_, rfl, rfl, rfl, rfl, fun k hk => frame_data j b hk⟩ <;>
    refine BitVec.eq_of_getLsbD_eq fun i hi => ?_
  · have hindex : 14 + i - 10 = 4 + i := by omega
    rw [BitVec.getLsbD_extractLsb', BitVec.getLsbD_extractLsb',
      frameWord_getLsbD_address j b (by omega) (by omega), hindex]
  · have hones : (0b111111#6).getLsbD i = true := by interval_cases i <;> rfl
    rw [BitVec.getLsbD_extractLsb', frameWord_getLsbD_padding j b (by omega) (by omega), hones]
    simpa using hi
  · rw [BitVec.getLsbD_extractLsb', Nat.zero_add, frameWord_getLsbD_byte j b hi]
    simp [hi]

/-! ## The phases of a frame -/

/-- Settles O26: the data write of bit `k` has the bit of the field that `17 - k` falls in. -/
theorem framePhases : Obligations.FramePhases := by
  refine ⟨fun j b => ⟨fun k hk => ?_, fun k hlow hk => ?_, fun k hlow hk => ?_⟩, by decide, by decide, by decide,
    by decide⟩
  · have hindex : 17 - k - 10 = 7 - k := by omega
    rw [frame_data j b (by omega), frameWord_getLsbD_address j b (by omega) (by omega), hindex]
  · rw [frame_data j b (by omega), frameWord_getLsbD_padding j b (by omega) (by omega)]
  · rw [frame_data j b hk, frameWord_getLsbD_byte j b (by omega)]

/-- R153: what is counted in a frame is counted in the bits, and then in the latch. -/
theorem frame_countP (p : PinEvent → Bool) (j : Fin 4) (b : Byte) {n : Nat}
    (hbit : ∀ v, (bitWrites v).countP p = n) :
    (frame j b).countP p = 18 * n + latchWrites.countP p := by
  simp only [frame, List.countP_append, List.countP_flatMap, Function.comp_def, hbit, List.map_const',
    List.sum_replicate, List.length_range, smul_eq_mul]

/-- R74, R153: the frame's 18 bits take 54 writes, and the latch follows. -/
theorem frame_drop_bits (j : Fin 4) (b : Byte) : (frame j b).drop 54 = latchWrites := rfl

/-- Settles O30: each bit is one clock-low, one data and one clock-high write. -/
theorem frameCounts : Obligations.FrameCounts := fun j b =>
  ⟨frame_length j b, frame_countP _ j b (n := 1) (by decide), frame_countP _ j b (n := 1) (by decide),
    frame_countP _ j b (n := 1) (by decide), frame_drop_bits j b⟩

end Sys2Proof.Machine
end

section
/-! The levels of the lines during one frame (R162), from the writes of its micro-steps. -/

namespace Sys2Proof.Machine

/-- R157: a micro-step makes one of the three writes of bit `k`, or is one of the latch. -/
theorem microWrite_cases (F : FrameWord) {n : Nat} (hn : n < 59) :
    (∃ k < 18, n = 3 * k ∧ microWrite ⟨n, hn⟩ F = ⟨.clk, false⟩) ∨
    (∃ k < 18, n = 3 * k + 1 ∧ microWrite ⟨n, hn⟩ F = ⟨.dat, F.getLsbD (17 - k)⟩) ∨
    (∃ k < 18, n = 3 * k + 2 ∧ microWrite ⟨n, hn⟩ F = ⟨.clk, true⟩) ∨
    54 ≤ n := by
  obtain hlt | hge := Nat.lt_or_ge n 54
  · have hk : n / 3 < 18 := by omega
    obtain hmod | hmod | hmod : n = 3 * (n / 3) ∨ n = 3 * (n / 3) + 1 ∨ n = 3 * (n / 3) + 2 := by omega
    · exact .inl ⟨_, hk, hmod, microWrite_clockLow F hk hmod⟩
    · exact .inr (.inl ⟨_, hk, hmod, microWrite_data F hk hmod⟩)
    · exact .inr (.inr (.inl ⟨_, hk, hmod, microWrite_clockHigh F hk hmod⟩))
  · exact .inr (.inr (.inr hge))

theorem afterMicroSteps_succ (F : FrameWord) (s : State) {n : Nat} (hn : n < 59) :
    afterMicroSteps F (n + 1) s = pinWrite (microWrite ⟨n, hn⟩ F) (afterMicroSteps F n s) := by
  simp [afterMicroSteps, List.take_add_one, hn, microStep]

/-- R162: CLK after `n` micro-steps: high from a bit's third write to the next bit's first one, and for two writes of
the latch. -/
def clkAfter (n : Nat) : Level := decide ((0 < n ∧ n ≤ 54 ∧ n % 3 = 0) ∨ n = 55 ∨ n = 56)

/-- R162: DAT after `n` micro-steps, 2 at least: the bit whose data write was the latest, and in the latch 0, 1, 1, 0,
1. -/
def datAfter (F : FrameWord) (n : Nat) : Level :=
  if n ≤ 54 then F.getLsbD (17 - (n - 2) / 3) else decide (n = 56 ∨ n = 57 ∨ n = 59)

theorem clkAfter_eq_true_iff (n : Nat) :
    clkAfter n = true ↔ (0 < n ∧ n ≤ 54 ∧ n % 3 = 0) ∨ n = 55 ∨ n = 56 :=
  decide_eq_true_iff

theorem clkAfter_eq_false_iff (n : Nat) :
    clkAfter n = false ↔ ¬ ((0 < n ∧ n ≤ 54 ∧ n % 3 = 0) ∨ n = 55 ∨ n = 56) :=
  decide_eq_false_iff_not

/-- R162: CLK rises at the third write of a bit. -/
theorem clkAfter_rises_iff (n : Nat) :
    clkAfter n = false ∧ clkAfter (n + 1) = true ↔ ∃ k < 18, n = 3 * k + 2 := by
  rw [clkAfter_eq_false_iff, clkAfter_eq_true_iff]
  constructor
  · intro h
    exact ⟨n / 3, by omega⟩
  · rintro ⟨k, hk, rfl⟩
    omega

/-- R162: CLK falls at the first write of a bit that is not the frame's first, and in the latch. -/
theorem clkAfter_falls_iff (n : Nat) :
    clkAfter n = true ∧ clkAfter (n + 1) = false ↔ (∃ k, 1 ≤ k ∧ k ≤ 17 ∧ n = 3 * k) ∨ n = 56 := by
  rw [clkAfter_eq_false_iff, clkAfter_eq_true_iff]
  constructor
  · intro h
    obtain hbits | hlatch := Nat.lt_or_ge n 54
    · exact .inl ⟨n / 3, by omega⟩
    · exact .inr (by omega)
  · rintro (⟨k, h1, hk, rfl⟩ | rfl) <;> omega

theorem datAfter_eq_data (F : FrameWord) {n k : Nat} (hn : n ≤ 54) (hk : (n - 2) / 3 = k) :
    datAfter F n = F.getLsbD (17 - k) := by
  rw [datAfter, if_pos hn, hk]

/-- R157: `clkAfter` is changed by the micro-steps that write the clock line, and by no other. -/
theorem clkAfter_succ (F : FrameWord) {n : Nat} (hn : n < 59) :
    clkAfter (n + 1) =
      if (microWrite ⟨n, hn⟩ F).pin = .clk then (microWrite ⟨n, hn⟩ F).level else clkAfter n := by
  obtain ⟨k, hk, hnk, hw⟩ | ⟨k, hk, hnk, hw⟩ | ⟨k, hk, hnk, hw⟩ | hlatch := microWrite_cases F hn
  · rw [hw]
    exact (clkAfter_eq_false_iff _).mpr (by omega)
  · rw [hw]
    exact decide_eq_decide.mpr (by omega)
  · rw [hw]
    exact (clkAfter_eq_true_iff _).mpr (by omega)
  · interval_cases n <;> rfl

/-- R157: and `datAfter` by those that write the data line, from the first one on. -/
theorem datAfter_succ (F : FrameWord) {n : Nat} (hfirst : 1 ≤ n) (hn : n < 59) :
    datAfter F (n + 1) =
      if (microWrite ⟨n, hn⟩ F).pin = .dat then (microWrite ⟨n, hn⟩ F).level else datAfter F n := by
  obtain ⟨k, hk, hnk, hw⟩ | ⟨k, hk, hnk, hw⟩ | ⟨k, hk, hnk, hw⟩ | hlatch := microWrite_cases F hn
  · rw [hw, datAfter_eq_data F (k := k - 1) (by omega) (by omega)]
    exact (datAfter_eq_data F (by omega) (by omega)).symm
  · rw [hw]
    exact datAfter_eq_data F (by omega) (by omega)
  · rw [hw, datAfter_eq_data F (k := k) (by omega) (by omega)]
    exact (datAfter_eq_data F (by omega) (by omega)).symm
  · interval_cases n <;> rfl

theorem clk_afterMicroSteps (F : FrameWord) {s : State} (hs : s.clk = false) {n : Nat} (hn : n ≤ 59) :
    (afterMicroSteps F n s).clk = clkAfter n := by
  induction n with
  | zero => exact hs
  | succ n ih => rw [afterMicroSteps_succ F s hn, pinWrite_clk, ih (by omega), clkAfter_succ F hn]

theorem dat_afterMicroSteps (F : FrameWord) (s : State) {n : Nat} (hlow : 2 ≤ n) (hn : n ≤ 59) :
    (afterMicroSteps F n s).dat = datAfter F n := by
  induction n, hlow using Nat.le_induction with
  | base => exact datAfter_succ F le_rfl (by omega)
  | succ n hlow ih =>
    rw [afterMicroSteps_succ F s hn, pinWrite_dat, ih (by omega), datAfter_succ F (by omega) hn]

/-- R162: before the latch a micro-step that changes DAT is a bit's data write. -/
theorem dataWrite_of_dat_changes {F : FrameWord} {s : State} {t : Nat} (ht : t < 54)
    (hne : (afterMicroSteps F t s).dat ≠ (afterMicroSteps F (t + 1) s).dat) : t % 3 = 1 := by
  have hlt : t < 59 := by omega
  rw [afterMicroSteps_succ F s hlt, pinWrite_dat] at hne
  obtain ⟨k, hk, htk, hw⟩ | ⟨k, hk, htk, hw⟩ | ⟨k, hk, htk, hw⟩ | hlatch := microWrite_cases F hlt
  · simp [hw] at hne
  · omega
  · simp [hw] at hne
  · omega

/-- Settles O31: the levels are `clkAfter` and `datAfter`, so each fact is one about their values. -/
theorem lineFacts : Obligations.LineFacts := by
  intro j b s hs
  have hclk {n} (hn : n ≤ 59) := clk_afterMicroSteps (frameWord j b) hs hn
  have hdat {n} (hlow : 2 ≤ n) (hn : n ≤ 59) := dat_afterMicroSteps (frameWord j b) s hlow hn
  refine ⟨?_, fun t ht => ⟨?_, ?_⟩, fun k hk => ⟨?_, fun n hlow hn => ?_⟩, fun t ht hne => ?_, ?_, ?_⟩
  · rw [hclk (by omega), hclk (by omega)]; rfl
  · rw [hclk (by omega), hclk (by omega)]; exact clkAfter_rises_iff t
  · rw [hclk (by omega), hclk (by omega)]; exact clkAfter_falls_iff t
  · rw [hclk (by omega), clkAfter_eq_false_iff]; omega
  · have hle : n ≤ 54 := by split_ifs at hn <;> omega
    rw [hdat (by omega) (by omega)]
    exact datAfter_eq_data _ hle (by split_ifs at hn <;> omega)
  · have hmod := dataWrite_of_dat_changes ht hne
    rw [hclk (by omega), hclk (by omega), clkAfter_eq_false_iff, clkAfter_eq_false_iff]
    omega
  · have hlast : (frameWord j b).getLsbD 0 = b.getLsbD 0 := frameWord_getLsbD_byte j b (by omega)
    refine ⟨hclk (by omega), hclk (by omega), hclk (by omega), hclk (by omega), hclk (by omega),
      ?_, hdat (by omega) (by omega), hdat (by omega) (by omega), hdat (by omega) (by omega),
      hdat (by omega) (by omega)⟩
    exact (hdat (by omega) (by omega)).trans hlast
  · exact ⟨hclk le_rfl, hdat (by omega) le_rfl⟩

end Sys2Proof.Machine
end

section
/-! The edges of an idle and of a busy block, field by field (R160, R163), and the step as the instruction it runs. -/

namespace Sys2Proof.Machine

/-- Settles O18: an idle block accepts the DISPLAY, so its next state is that of `loadFrame 0`. -/
theorem displayAccepted : Obligations.DisplayAccepted := by
  intro s hseq
  exact ⟨loadFrame 0 (newCycle s), by rw [exec_display, accept_idle _ hseq], by simp⟩

/-- Settles O34: `step_idle_quiet`, where only the diagnostic pulse and the model's counter change. -/
theorem idleEdgeHolds : Obligations.IdleEdgeHolds := by
  intro s hdone hseq hlook hrst hvalid
  exact ⟨_, step_idle_quiet hlook hrst hdone hseq hvalid, by simp [hseq]⟩

theorem commandEdge_of_decode {w : CmdWord} {i : Instr} (hw : decode (.command w) = .ok i) (s : State) :
    commandEdge w s = exec i s := by
  simp only [commandEdge, hw]

/-- Settles O32: `step_presented` for a command word, `step_lookup` for the lookup port. -/
theorem stepRunsDecodedInstruction : Obligations.StepRunsDecodedInstruction := by
  refine ⟨fun s p rest i hin hrst hvalid hdone hseq hw _ => ?_, fun s cp rest i hin hcp _ => ?_⟩
  · rw [step_presented hin hrst hvalid hdone hseq, commandEdge_of_decode hw]
  · obtain rfl : Instr.translate cp = i := Except.ok.inj hcp
    rw [step_lookup hin, exec_translate]

/-! ## The four ways a pass advances (R160), each under its own condition -/

section
variable (j : Fin 4) (k : Fin 59) (h : Nat) (s : State)

theorem busyEdge_holds (hh : h < s.stepCycles - 1) :
    (busyEdge j k h s).seq = .busy j k (h + 1) ∧ (busyEdge j k h s).fr = s.fr := by
  obtain ⟨-, hnext⟩ | ⟨hle, -⟩ | ⟨hle, -⟩ | ⟨hle, -⟩ := busyEdge_cases j k h s
  · exact hnext
  · omega
  · omega
  · omega

theorem busyEdge_nextMicroStep (hh : s.stepCycles - 1 ≤ h) (k' : Fin 59) (hk : k'.val = k.val + 1) :
    (busyEdge j k h s).seq = .busy j k' 0 ∧ (busyEdge j k h s).fr = s.fr := by
  obtain ⟨hlt, -⟩ | ⟨-, hlt, hnext⟩ | ⟨-, hlast, -⟩ | ⟨-, hlast, -⟩ := busyEdge_cases j k h s
  · omega
  · have hk' : k' = ⟨k.val + 1, by omega⟩ := Fin.ext hk
    exact hk' ▸ hnext
  · omega
  · omega

theorem busyEdge_nextFrame (hh : s.stepCycles - 1 ≤ h) (hk : k.val = 58) (j' : Fin 4) (hj : j'.val = j.val + 1) :
    (busyEdge j k h s).seq = .busy j' 0 0 ∧ (busyEdge j k h s).fr = frameWord j' (s.buf.get j') := by
  obtain ⟨hlt, -⟩ | ⟨-, hlt, -⟩ | ⟨-, -, hlt, hnext⟩ | ⟨-, -, hlast, -⟩ := busyEdge_cases j k h s
  · omega
  · omega
  · have hj' : j' = ⟨j.val + 1, by omega⟩ := Fin.ext hj
    exact hj' ▸ hnext
  · omega

theorem busyEdge_ends (hh : s.stepCycles - 1 ≤ h) (hk : k.val = 58) (hj : j.val = 3) :
    (busyEdge j k h s).seq = .idle := by
  obtain ⟨hlt, -⟩ | ⟨-, hlt, -⟩ | ⟨-, -, hlt, -⟩ | ⟨-, -, -, hidle⟩ := busyEdge_cases j k h s
  · omega
  · omega
  · omega
  · exact hidle

end

/-- Settles O33: the fields of `busyEdge`, and its four ways to advance. -/
theorem busyEdgeFollowsSequencer : Obligations.BusyEdgeFollowsSequencer := by
  intro s j k h hdone hseq hrun
  obtain ⟨hlook, hrst⟩ := runningEdges_head hrun
  exact ⟨_, step_busy hlook hrst hdone hseq, busyEdge_buf .., busyEdge_diag .., busyEdge_inputs .., busyEdge_romCp ..,
    busyEdge_digitCount .., busyEdge_stepCycles .., busyEdge_resetDone .., busyEdge_trace ..,
    by simp [busyEdge_clk, microStep, pinWrite_clk], by simp [busyEdge_dat, microStep, pinWrite_dat],
    busyEdge_holds j k h s.takeEvent, busyEdge_nextMicroStep j k h s.takeEvent,
    busyEdge_nextFrame j k h s.takeEvent, busyEdge_ends j k h s.takeEvent⟩

end Sys2Proof.Machine
end

section
/-! A pass at the level of edges against the transaction DISPLAY (R161), and when each of its writes is made (R212). -/

namespace Sys2Proof.Machine

/-! ## The transaction on the wire -/

theorem foldl_pinWrite_wire (l : List PinEvent) (s : State) :
    (l.foldl (fun s e => pinWrite e s) s).wire = l.foldl Wire.write s.wire := by
  induction l generalizing s with
  | nil => rfl
  | cons e l ih => rw [List.foldl_cons, List.foldl_cons, ih, pinWrite_wire]

/-- R124, R125: the transaction DISPLAY is the PinWrites of a pass over BUF. -/
theorem displayTransaction_eq (s : State) :
    displayTransaction s = (passTrace s.buf).foldl (fun s e => pinWrite e s) s := by
  simp [displayTransaction, passTrace, sendFrame, foldl_pinWrite_buf]

/-- Settles O20: both levels make the writes of `passTrace`; `runSteps_passSoFar` says that the pass is not over
before. -/
theorem sequencerAgreesWithTransaction : Obligations.SequencerAgreesWithTransaction := by
  intro s hdone hcycles hseq hfr hrun
  constructor
  · obtain ⟨t, ht, hidle, hbuf, hwire⟩ := runSteps_wholePass hdone hcycles hseq hfr hrun
    have hagree : t.wire = (displayTransaction s).wire := by
      rw [hwire, displayTransaction_eq, foldl_pinWrite_wire]
    have htrace : t.trace = s.trace ++ passTrace s.buf :=
      (congrArg Wire.trace hwire).trans (Wire.foldl_write_trace _ _)
    exact ⟨t, ht, hidle, htrace, congrArg Wire.trace hagree, congrArg Wire.clk hagree, congrArg Wire.dat hagree,
      by rw [hbuf, displayTransaction_eq, foldl_pinWrite_buf]⟩
  · intro m hm
    obtain ⟨t, ht, htrange, hleft, -⟩ :=
      runSteps_passSoFar hdone hcycles hseq hfr hm.le (runningEdges_mono hm.le hrun)
    exact ⟨t, ht, (State.edgesToIdle_eq_zero_iff htrange).not.mp (by omega)⟩

/-! ## The edges of the writes -/

/-- R212: what a pass has behind it and what it has left make up its `236 * S` edges. -/
theorem edgesLeft_add_edgesMade (j : Fin 4) (k : Fin 59) {h S : Nat} (hh : h < S) :
    edgesLeft j k h S + ((59 * j.val + k.val) * S + h) = 236 * S := by
  have hsteps : 59 * (3 - j.val) + (58 - k.val) + 1 + (59 * j.val + k.val) = 236 := by omega
  have htotal : 236 * S = (59 * (3 - j.val) + (58 - k.val)) * S + S + (59 * j.val + k.val) * S := by
    rw [← hsteps, Nat.add_mul, Nat.succ_mul]
  rw [edgesLeft, htotal]
  omega

/-- R212: after `q` whole micro-steps and `h` cycles of the next one, the micro-steps begun are the edges gone by, in
units of `S`, rounded up. -/
theorem edgesMade_ceilDiv (q : Nat) {h S : Nat} (hh : h < S) :
    (q * S + h + S - 1) / S = q + (if h = 0 then 0 else 1) := by
  have hS : 0 < S := by omega
  have hsplit : q * S + h + S - 1 = h + S - 1 + q * S := by omega
  rw [hsplit, Nat.add_mul_div_right _ _ hS, Nat.add_comm]
  split_ifs with hzero
  · rw [Nat.div_eq_of_lt (by omega)]
  · have hbegun : h + S - 1 = h - 1 + S := by omega
    rw [hbegun, Nat.add_div_right _ hS, Nat.div_eq_of_lt (by omega)]

/-- R160, R212: the writes made in a pass, by the edges `m` that it has behind it. -/
theorem State.passWrites_eq_ceilDiv {t : State} (hrange : t.seqInRange) {m : Nat}
    (hm : t.edgesToIdle + m = 236 * t.stepCycles) : t.passWrites = (m + t.stepCycles - 1) / t.stepCycles := by
  cases hseq : t.seq with
  | idle =>
    rw [State.edgesToIdle_of_idle hseq, Nat.zero_add] at hm
    rw [State.passWrites_of_idle hseq, hm]
    exact (edgesMade_ceilDiv 236 hrange.1).symm
  | busy j k h =>
    have hh : h < t.stepCycles := hrange.2 j k h hseq
    rw [State.edgesToIdle_of_busy hseq, ← edgesLeft_add_edgesMade j k hh] at hm
    rw [State.passWrites_of_busy hseq, writesMade, Nat.add_left_cancel hm, edgesMade_ceilDiv _ hh]

/-- Settles O22: `PassSoFar` counts the writes made, and `State.passWrites_eq_ceilDiv` has the count by the edges gone
by. -/
theorem passWritesOnTime : Obligations.PassWritesOnTime := by
  intro s hdone hcycles hseq hfr m hm hrun
  obtain ⟨t, ht, htrange, hleft, hcycles', hbuf, -, hwire⟩ := runSteps_passSoFar hdone hcycles hseq hfr hm hrun
  rw [← hcycles'] at hleft ⊢
  refine ⟨t, ht, hbuf, ?_⟩
  rw [← State.passWrites_eq_ceilDiv htrange hleft]
  exact (congrArg Wire.trace hwire).trans (Wire.foldl_write_trace _ _)

end Sys2Proof.Machine
end

section
/-! The diagnostic NO_GLYPH (R32, R180): the one clock edge that raises it. -/

namespace Sys2Proof.Machine

theorem State.diagChar_of_diag {s : State} {d : Diag} (h : s.diag = some d) : s.diagChar = d.char := by
  simp [State.diagChar, h]

/-- R180: a PRINT that starts its own cycle shows DIAG_VALID exactly when its code point has no glyph. -/
theorem printEffect_newCycle_diagValid (cp : Byte) (s : State) :
    (printEffect cp (newCycle s)).diagValid = (translateCp cp).noglyph := by
  cases hno : (translateCp cp).noglyph <;> simp [State.diagValid, hno]

/-- R120: a clock edge with a next state that accepts a PRINT has the effect of that PRINT. -/
theorem clockEdge_accepts_print {p : Ports} {s t : State} {pos : BitVec 2} {cp : Byte} (h : clockEdge p s = .next t)
    (hrst : p.rst = false) (hseq : s.seq = .idle) (hvalid : p.cmdValid = true)
    (hcmd : decodeCommand p.cmd = .ok (.print pos cp)) : t = printEffect cp (newCycle s) := by
  obtain hreset | ⟨hdone, -⟩ := (clockEdge_next_iff p s).mp ⟨t, h⟩
  · simp [hrst] at hreset
  · rw [clockEdge_command hrst hdone hseq hvalid, commandEdge_print hseq hcmd] at h
    cases h; rfl

/-- R32: of the five kinds of clock edge only an accepted PRINT leaves DIAG_VALID at 1. -/
theorem clockEdge_of_diagValid {p : Ports} {s t : State} (h : clockEdge p s = .next t) (hdiag : t.diagValid = true) :
    p.rst = false ∧ s.seq = .idle ∧ p.cmdValid = true ∧
      decodeCommand p.cmd = .ok (.print (aField p.cmd) (dField p.cmd)) ∧
      (translateCp (dField p.cmd)).noglyph = true ∧ t = printEffect (dField p.cmd) (newCycle s) := by
  obtain ⟨-, rfl⟩ | ⟨hrst, -, hcases⟩ := clockEdge_cases h
  · simp [State.diagValid, resetEdge] at hdiag
  · obtain ⟨-, -, rfl⟩ | ⟨hseq, hvalid, hcmd, rfl⟩ | ⟨-, -, -, rfl⟩ | ⟨j, k, n, -, rfl⟩ := hcases
    · simp [State.diagValid] at hdiag
    · rw [printEffect_newCycle_diagValid] at hdiag
      exact ⟨hrst, hseq, hvalid, hcmd, hdiag, rfl⟩
    · simp [State.diagValid] at hdiag
    · simp [State.diagValid] at hdiag

theorem clockEdge_diagValid_iff {p : Ports} {s t : State} (h : clockEdge p s = .next t) :
    t.diagValid = true ↔ p.rst = false ∧ s.seq = .idle ∧ p.cmdValid = true ∧
      ∃ pos cp, decodeCommand p.cmd = .ok (.print pos cp) ∧ (translateCp cp).noglyph = true := by
  constructor
  · intro hdiag
    obtain ⟨hrst, hseq, hvalid, hcmd, hno, -⟩ := clockEdge_of_diagValid h hdiag
    exact ⟨hrst, hseq, hvalid, _, _, hcmd, hno⟩
  · rintro ⟨hrst, hseq, hvalid, pos, cp, hcmd, hno⟩
    rw [clockEdge_accepts_print h hrst hseq hvalid hcmd, printEffect_newCycle_diagValid, hno]

/-- R105, R180: what a PRINT without a glyph leaves in the diagnostic and in slot 0. -/
theorem printEffect_of_noglyph {cp : Byte} (s : State) (hno : (translateCp cp).noglyph = true) :
    (printEffect cp s).diag = some { cause := .noGlyph, char := cp } ∧ (printEffect cp s).buf.slot0 = sentinel := by
  have hpat : (translateCp cp).pat = sentinel := (translateWith_pat_eq_sentinel_iff charTable cp).mpr hno
  simp [hno, hpat]

/-- R107: a lookup is no clock edge, so the pulse stands. -/
theorem step_diag_of_lookupNext {s t : State} (hlook : s.lookupNext = true) (h : step s = .next t) :
    t.diag = s.diag := by
  obtain ⟨cp, rest, -, rfl⟩ | ⟨hno, -⟩ := step_cases h
  · rfl
  · simp [hlook] at hno

/-- Settles O16: `clockEdge_diagValid_iff` for the presented ports; a quiet edge presents no command. -/
theorem noGlyphRaisedExactly : Obligations.NoGlyphRaisedExactly := by
  refine ⟨fun s t p rest hin h => ?_, fun s t hin h => ?_, fun s t => step_diag_of_lookupNext⟩
  · rw [step_clock hin] at h
    refine ⟨clockEdge_diagValid_iff (s := { s with inputs := rest }) h, fun hdiag => ?_⟩
    obtain ⟨-, -, -, -, hno, rfl⟩ := clockEdge_of_diagValid h hdiag
    obtain ⟨hraised, hslot⟩ := printEffect_of_noglyph (newCycle { s with inputs := rest }) hno
    exact ⟨State.diagChar_of_diag hraised, hslot, hraised, by simp⟩
  · rw [step_quiet hin] at h
    rw [← Bool.not_eq_true]
    intro hdiag
    obtain ⟨-, -, hvalid, -⟩ := clockEdge_of_diagValid h hdiag
    simp [quietPorts] at hvalid

end Sys2Proof.Machine
end

section
/-! The reset edge (R200, R204) and the initial display pass that it begins (R201). -/

namespace Sys2Proof.Machine

theorem step_resetEdge {s : State} {p : Ports} {rest : List HostEvent} (hin : s.inputs = .clock p :: rest)
    (hrst : p.rst = true) : step s = .next (resetEdge { s with inputs := rest }) :=
  (step_clock hin).trans (clockEdge_reset _ hrst)

/-- Settles O43: the fields of `resetEdge`. -/
theorem resetEdgeSetsRegisters : Obligations.ResetEdgeSetsRegisters := fun _ _ _ hin hrst =>
  ⟨_, step_resetEdge hin hrst, rfl, rfl, rfl, rfl, rfl, rfl, rfl, rfl, rfl, rfl, rfl, rfl⟩

/-- R204: on registers that are just reset another reset edge finds every value in place. -/
theorem resetEdge_after_resetEdge (s : State) (rest : List HostEvent) :
    resetEdge { resetEdge s with inputs := rest } =
      { resetEdge s with inputs := rest, cycle := (resetEdge s).cycle + 1 } := rfl

/-- Settles O44: `resetEdge_after_resetEdge`, for the state that the first reset edge leaves. -/
theorem holdingResetChangesNothing : Obligations.HoldingResetChangesNothing := by
  intro s t p q rest hin hp hq h
  rw [step_resetEdge hin hp] at h
  cases h
  rw [step_resetEdge rfl hq, resetEdge_after_resetEdge]

/-- R201: the first write of a pass is micro-step 0 of the frame of slot 0. -/
theorem passTrace_take_one (b : Buffer) : (passTrace b).take 1 = [microWrite 0 (frameWord 0 b.slot0)] := rfl

/-- Settles O45: a reset edge leaves the block at the start of a pass over the default buffer (`resetEdgeSetsRegisters`),
with RST held at 0. The first write of that pass is made on time (`passWritesOnTime`), `runSteps_wholePass` is all of it,
and it is not over before (`sequencerAgreesWithTransaction`). -/
theorem initialDisplayPass : Obligations.InitialDisplayPass := by
  intro s p rest hin hrst hcycles hrun
  obtain ⟨r, hreset, hbuf, -, -, hempty, hfr, hseq, -, hdone, rfl, -, -, hkept⟩ :=
    resetEdgeSetsRegisters s p rest hin hrst
  have hafter (n : Nat) : runSteps (1 + n) s = runSteps n r := by rw [Nat.add_comm, runSteps_succ n hreset]
  have hframe : r.fr = frameWord 0 r.buf.slot0 := by rw [hfr, hbuf]
  simp only [← hkept, hafter] at hcycles hrun ⊢
  refine ⟨?_, ?_, (sequencerAgreesWithTransaction r hdone hcycles hseq hframe hrun).2⟩
  · obtain ⟨t, ht, -, htrace⟩ :=
      passWritesOnTime r hdone hcycles hseq hframe 1 (by omega) (runningEdges_mono (by omega) hrun)
    refine ⟨t, (hafter 1).trans ht, ?_⟩
    rw [htrace, hempty, Nat.add_sub_cancel_left, Nat.div_self hcycles, passTrace_take_one, hbuf, List.nil_append]
  · obtain ⟨t, ht, hidle, hkeep, hwire⟩ := runSteps_wholePass hdone hcycles hseq hframe hrun
    have htrace : t.trace = r.trace ++ passTrace r.buf :=
      (congrArg Wire.trace hwire).trans (Wire.foldl_write_trace _ _)
    obtain ⟨hclk, hdat⟩ := lines_after_passTrace r.buf r.wire
    refine ⟨t, ht, hidle, ?_, hkeep.trans hbuf, (congrArg Wire.clk hwire).trans hclk,
      (congrArg Wire.dat hwire).trans hdat⟩
    rw [htrace, hempty, hbuf, List.nil_append]
    rfl

end Sys2Proof.Machine
end

section
/-! A command beside a pass: DISPLAY at the edge after a PRINT (R209), and a command held while a pass runs (R206,
R208). -/

namespace Sys2Proof.Machine

/-- Settles O37: the PRINT leaves the block idle with its pattern in slot 0, and the DISPLAY loads the frame of that
slot. -/
theorem printThenDisplay : Obligations.PrintThenDisplay := by
  intro s p q rest pos cp hdone hseq hin hprst hpvalid hqrst hqvalid hprint hdisplay
  have hfirst : step s = .next (printEffect cp (newCycle { s with inputs := .clock q :: rest })) :=
    (step_presented hin hprst hpvalid hdone hseq).trans
      (commandEdge_print (s := { s with inputs := .clock q :: rest }) hseq hprint)
  generalize hu : printEffect cp (newCycle { s with inputs := .clock q :: rest }) = u at hfirst
  have hseq' : u.seq = .idle := by simpa [← hu] using hseq
  have hdone' : u.resetDone = true := by simpa [← hu] using hdone
  have hslot : u.buf.slot0 = (translateCp cp).pat := by simp [← hu]
  have hsecond : step u = .next (loadFrame 0 (newCycle { u with inputs := rest })) :=
    (step_presented (by simp [← hu]) hqrst hqvalid hdone' hseq').trans
      (commandEdge_display (s := { u with inputs := rest }) hseq' hdisplay)
  exact ⟨_, (runSteps_succ 1 hfirst).trans (runSteps_succ 0 hsecond), rfl, by simp [hslot], hslot⟩

/-! ## A held command -/

theorem State.takeEvent_of_inputs_nil {s : State} (hin : s.inputs = []) : s.takeEvent = s := by
  cases s; simp_all [State.takeEvent]

theorem hostRun_of_next {s t : State} {prog rest : List HostLine} {e : HostEvent} (n : Nat)
    (hdrive : hostDrive prog s = some (e, rest)) (hstep : step { s with inputs := [e] } = .next t) :
    hostRun (n + 1) prog s = hostRun n rest t := by
  simp only [hostRun, hdrive, hstep]

theorem hostRun_one {s : State} {prog rest : List HostLine} {e : HostEvent}
    (hdrive : hostDrive prog s = some (e, rest)) : hostRun 1 prog s = step { s with inputs := [e] } := by
  simp only [hostRun, hdrive]
  cases step { s with inputs := [e] } <;> rfl

/-- R206: while the block is busy the host holds its word, and the edge is that of a pass with no word presented. -/
theorem hostRun_command_busy {s : State} {j k h} (hdone : s.resetDone = true) (hseq : s.seq = .busy j k h) (w : CmdWord)
    (prog : List HostLine) (n : Nat) :
    hostRun (n + 1) (.command w :: prog) s =
      hostRun n (.command w :: prog) (busyEdge j k h { s with inputs := [] }) :=
  hostRun_of_next n (by simp [hostDrive, hseq, Seq.isBusy])
    (step_busy (s := { s with inputs := [.clock (commandPorts w)] }) rfl rfl hdone hseq)

/-- R208: the first edge of the idle block runs the word's instruction. -/
theorem hostRun_command_idle {s : State} {w : CmdWord} {i : Instr} (hdone : s.resetDone = true) (hseq : s.seq = .idle)
    (hw : decodeCommand w = .ok i) : hostRun 1 [.command w] s = exec i { s with inputs := [] } := by
  have hdrive : hostDrive [.command w] s = some (.clock (commandPorts w), []) := by
    simp [hostDrive, hseq, Seq.isBusy]
  rw [hostRun_one hdrive]
  exact (step_presented (s := { s with inputs := [.clock (commandPorts w)] }) rfl rfl rfl hdone hseq).trans
    (commandEdge_of_decode hw _)

/-- What holds of a block `t` in the pass during which, from `start` on, the host holds the word `w`: with the edges that
are left, and one more, the host comes from `t` to where it comes from `start`. -/
structure HeldSoFar (w : CmdWord) (start t : State) : Prop where
  done : t.resetDone = true
  range : t.seqInRange
  inputs : t.inputs = []
  run : hostRun (start.edgesToIdle + 1) [.command w] start = hostRun (t.edgesToIdle + 1) [.command w] t

theorem busyEdge_keeps_heldSoFar {w : CmdWord} {start s : State} {j k h} (hseq : s.seq = .busy j k h)
    (hs : HeldSoFar w start s) : HeldSoFar w start (busyEdge j k h s.takeEvent) := by
  obtain ⟨hdone, hrange, hin, hheld⟩ := hs
  rw [State.takeEvent_of_inputs_nil hin]
  obtain ⟨hrange', hleft⟩ := busyEdge_uses_edge hseq hrange
  refine ⟨by simpa using hdone, hrange', by simpa using hin, ?_⟩
  rw [hheld, ← hleft, hostRun_command_busy hdone hseq, ← hin]

/-- Settles O54: `HeldSoFar` over the edges of the pass; then none is left, and the one more runs the instruction. -/
theorem heldCommandRunsAfterPass : Obligations.HeldCommandRunsAfterPass := by
  intro s j k h w i hdone hrange hseq hin hw
  rw [← State.edgesToIdle_of_busy hseq]
  obtain ⟨u, hu, hurange, hleft, hudone, -, huin, hheld⟩ :=
    runSteps_pass (P := HeldSoFar w s) busyEdge_keeps_heldSoFar hdone hrange (by simp [runningEdges, hin]) le_rfl
      ⟨hdone, hrange, hin, rfl⟩
  have hnone : u.edgesToIdle = 0 := by omega
  have hidle : u.seq = .idle := (State.edgesToIdle_eq_zero_iff hurange).mp hnone
  refine ⟨u, hu, hidle, ?_⟩
  rw [hheld, hnone, hostRun_command_idle hudone hidle hw, ← huin]

end Sys2Proof.Machine
end
